-- ==== Sys2Proof/Word.lean ====
section
/-!
DEFINITION. The word types of the engine: bytes, 32-bit words, 128-bit values (R12), and the 4x4 byte
matrix of the cipher's State (R14, R22) with its plainest arithmetic, byte-wise exclusive or (R13).
-/

namespace Sys2Proof

/-- `byte` of R12: an unsigned 8-bit value. -/
abbrev Byte := BitVec 8

/-- `word` of R12: an unsigned 32-bit value. -/
abbrev Word := BitVec 32

/-- A 128-bit value: the operand port, DOUT, a round key (R55). -/
abbrev Quad := BitVec 128

/-- One column of the State (R14): row 0 on top. The four bytes of a word in index order are a column
too (R54: b0, the most significant, is row 0). -/
structure Column where
  r0 : Byte
  r1 : Byte
  r2 : Byte
  r3 : Byte
deriving DecidableEq, Repr

/-- The 16-byte State of R22 as its four columns: byte `4c + r` is row `r` of column `c`. -/
structure Block where
  c0 : Column
  c1 : Column
  c2 : Column
  c3 : Column
deriving DecidableEq, Repr

/-- Byte-wise exclusive or of two columns (R13). -/
def Column.xor (a b : Column) : Column :=
  ⟨a.r0 ^^^ b.r0, a.r1 ^^^ b.r1, a.r2 ^^^ b.r2, a.r3 ^^^ b.r3⟩

/-- Sixteen zero bytes. -/
def Block.zero : Block :=
  ⟨⟨0, 0, 0, 0⟩, ⟨0, 0, 0, 0⟩, ⟨0, 0, 0, 0⟩, ⟨0, 0, 0, 0⟩⟩

end Sys2Proof
end

