-- ==== Sys2Proof/Config.lean ====
section
/-!
DEFINITION. What an implementation fixes (R11) and the free values of the model: constants with no body, so
that nothing proved can rest on what they are.
-/

namespace Sys2Proof

/-- RESET_KIND of R11. -/
inductive ResetKind where
  | synchronous
  | asynchronous
deriving DecidableEq, Repr, Inhabited

/-- HAS_RKRD's default (R11, D14). The value a machine has is `State.hasRkrd`. -/
def Config.hasRkrdDefault : Bool := true

/-- N_ENGINES' default (R11, D26). Machine/Instances.lean takes any number. -/
def Config.nEnginesDefault : Nat := 1

/-- RESET_KIND (R11, R290, U18): no rule depends on it. Free value, DESIGN CHOICE, log 9. -/
opaque Config.resetKind : ResetKind

/-- LAT_KEYEXP less 1 (R11, R302, U17). Free value, DEDUCED, log 12. -/
opaque Config.latKeyexpLessOne : Nat

/-- LAT_ENC less 1 (R11, R302, U17). Free value, DEDUCED, log 12. -/
opaque Config.latEncLessOne : Nat

/-- LAT_DEC less 1 (R11, R302, U17). Free value, DEDUCED, log 12. -/
opaque Config.latDecLessOne : Nat

/-- What a host reads from DOUT while BUSY = 1, a fresh value for each read (R65, R230, U1): the argument is
`State.draws`. Free value, DESIGN CHOICE, log 7: every machine draws from this one function of its own count, so two
instances, or two runs, with equal counts read equal values, which the spec does not say. -/
opaque Config.busyDout : Nat → Quad

/-- What a read of an unwritten RK word would give (R38, U3, U4). No rule forms such a read. Free value, DEDUCED, log 1. -/
opaque Config.unwrittenWord : Nat → Word

/-- What DOUT would give with DOUT_VALID = 1 and nothing written (R27, R38). No run reaches such a state. Free value, DEDUCED,
log 1. -/
opaque Config.unwrittenDout : Quad

/-- What RCON would give at an index past 9 (R53, U13). No rule forms such an index. Free value, DEDUCED, log 15. -/
opaque Config.rconNothing : Nat → Byte

end Sys2Proof
end

