-- ==== Sys2Proof/Machine/Bytes.lean ====
section
/-!
DEFINITION. Byte order (section 2 of 20_memory.md): words against bytes, 128-bit values against the 4x4 matrix, and
the matrix indexing of R14.
-/

namespace Sys2Proof.Machine

/-- `word(b0, b1, b2, b3)` of R54, b0 the most significant byte. -/
def word (b : Column) : Word := b.r0 ++ b.r1 ++ b.r2 ++ b.r3

/-- `bytes(w)` of R54. -/
def bytes (w : Word) : Column :=
  ⟨w.extractLsb' 24 8, w.extractLsb' 16 8, w.extractLsb' 8 8, w.extractLsb' 0 8⟩

/-- Four words side by side, the first most significant: `word(b0..b3) || word(b4..b7) || ...` of R55. -/
def quadOfWords (w0 w1 w2 w3 : Word) : Quad := w0 ++ w1 ++ w2 ++ w3

/-- `vec128` of R55: byte 0 in bits 127:120. -/
def vec128 (b : Block) : Quad := quadOfWords (word b.c0) (word b.c1) (word b.c2) (word b.c3)

/-- `bytes16` of R55. -/
def bytes16 (v : Quad) : Block :=
  ⟨bytes (v.extractLsb' 96 32), bytes (v.extractLsb' 64 32), bytes (v.extractLsb' 32 32),
    bytes (v.extractLsb' 0 32)⟩

/-- Row `r` of a column. -/
def rowOf (c : Column) (r : Fin 4) : Byte :=
  match r with
  | 0 => c.r0
  | 1 => c.r1
  | 2 => c.r2
  | 3 => c.r3

/-- Column `c` of a State. -/
def colOf (s : Block) (c : Fin 4) : Column :=
  match c with
  | 0 => s.c0
  | 1 => s.c1
  | 2 => s.c2
  | 3 => s.c3

/-- `s[r][c]` of R14. -/
def cell (s : Block) (r c : Fin 4) : Byte := rowOf (colOf s c) r

/-- The State whose entry `[r][c]` is `f r c`; every output byte is computed from the input (R14). -/
def ofCells (f : Fin 4 → Fin 4 → Byte) : Block :=
  let col (c : Fin 4) : Column := ⟨f 0 c, f 1 c, f 2 c, f 3 c⟩
  ⟨col 0, col 1, col 2, col 3⟩

/-- Byte `k` of a 16-byte value: `STATE[k]` is `s[k mod 4][k div 4]` (R14). -/
def byteOf (s : Block) (k : Fin 16) : Byte :=
  cell s ⟨k.val % 4, Nat.mod_lt _ (by decide)⟩ ⟨k.val / 4, Nat.div_lt_of_lt_mul k.isLt⟩

/-- The 16 bytes of a State in index order. -/
def byteList (s : Block) : List Byte := List.ofFn (byteOf s)

end Sys2Proof.Machine
end

