-- ==== Sys2Proof/Machine/Gf.lean ====
section
/-!
DEFINITION. GF(2^8) arithmetic, the MixColumns kernel (40_gf_arithmetic.md). A byte stands for a polynomial of degree
at most 7 over GF(2); addition is exclusive or (R100).
-/

namespace Sys2Proof.Machine

/-- The doubling step `xtime` (R101): shift left, truncate to 8 bits, reduce by 0x1B on overflow. -/
def xtime (a : Byte) : Byte :=
  let t := a <<< 1
  if a.getLsbD 7 then t ^^^ 0x1b#8 else t

/-- `m[k]` of R102: `a` doubled `k` times. -/
def xtimes (a : Byte) : Nat → Byte
  | 0 => a
  | k + 1 => xtime (xtimes a k)

/-- `gfmul(a, b)` (R102): the exclusive or of the doublings of `a` that the set bits of `b` select. -/
def gfmul (a b : Byte) : Byte :=
  (List.range 8).foldl (fun p k => if b.getLsbD k then p ^^^ xtimes a k else p) 0x00#8

end Sys2Proof.Machine
end

