-- ==== Sys2Proof/Machine/Tables.lean ====
section
/-!
DEFINITION. The constant ROMs of 41_tables.md: SBOX, INVSBOX, RCON. Each byte table is the number whose hexadecimal
digits are the spec's flat listing, "index 0x00 first", so entry `a` of a 256-entry table is byte `255 - a` counted
from the least significant one.
-/

namespace Sys2Proof.Machine

/-- R120, flat listing of SBOX. The entries are the spec's general knowledge of FIPS-197 (DEDUCED, log 15). -/
def sboxFlat : Nat :=
  0x637c777bf26b6fc53001672bfed7ab76ca82c97dfa5947f0add4a2af9ca472c0b7fd9326363ff7cc34a5e5f171d8311504c723c31896059a071280e2eb27b27509832c1a1b6e5aa0523bd6b329e32f8453d100ed20fcb15b6acbbe394a4c58cfd0efaafb434d338545f9027f503c9fa851a3408f929d38f5bcb6da2110fff3d2cd0c13ec5f974417c4a77e3d645d197360814fdc222a908846eeb814de5e0bdbe0323a0a4906245cc2d3ac629195e479e7c8376d8dd54ea96c56f4ea657aae08ba78252e1ca6b4c6e8dd741f4bbd8b8a703eb5664803f60e613557b986c11d9ee1f8981169d98e949b1e87e9ce5528df8ca1890dbfe6426841992d0fb054bb16

/-- R122, flat listing of INVSBOX. -/
def invSboxFlat : Nat :=
  0x52096ad53036a538bf40a39e81f3d7fb7ce339829b2fff87348e4344c4dee9cb547b9432a6c2233dee4c950b42fac34e082ea16628d924b2765ba2496d8bd12572f8f66486689816d4a45ccc5d65b6926c704850fdedb9da5e154657a78d9d8490d8ab008cbcd30af7e45805b8b34506d02c1e8fca3f0f02c1afbd0301138a6b3a9111414f67dcea97f2cfcef0b4e67396ac7422e7ad3585e2f937e81c75df6e47f11a711d29c5896fb7620eaa18be1bfc563e4bc6d279209adbc0fe78cd5af41fdda8338807c731b11210592780ec5f60517fa919b54a0d2de57a9f93c99cefa0e03b4dae2af5b0c8ebbb3c83539961172b047eba77d626e169146355210c7d

/-- Entry `a` of a flat 256-byte table. -/
def romEntry (flat : Nat) (a : Byte) : Byte := BitVec.ofNat 8 (flat >>> (8 * (255 - a.toNat)))

/-- `SBOX[a]` (R120). -/
def sbox (a : Byte) : Byte := romEntry sboxFlat a

/-- `INVSBOX[a]` (R122). -/
def invSbox (a : Byte) : Byte := romEntry invSboxFlat a

/-- The ten entries of RCON (R124). -/
def rconRom : List Byte := [0x01, 0x02, 0x04, 0x08, 0x10, 0x20, 0x40, 0x80, 0x1b, 0x36]

/-- `RCON[j]` (R124). Indices past 9 hold nothing and are never formed (R53, U13): a free value. -/
def rcon (j : Nat) : Byte :=
  match rconRom[j]? with
  | some b => b
  | none => Config.rconNothing j

/-- `rotl8` of R121. -/
def rotl8 (b : Byte) (n : Nat) : Byte := (b <<< n) ||| (b >>> (8 - n))

/-- The affine map of R121 applied to `inv(a)`. -/
def sboxAffine (v : Byte) : Byte :=
  v ^^^ rotl8 v 1 ^^^ rotl8 v 2 ^^^ rotl8 v 3 ^^^ rotl8 v 4 ^^^ 0x63#8

end Sys2Proof.Machine
end

