-- ==== Sys2Proof/Machine/KeySchedule.lean ====
section
/-!
DEFINITION. The key expansion as a pure function (section 1 of 42_key_schedule.md).
-/

namespace Sys2Proof.Machine

/-- RotWord (R142): a cyclic left rotation by one byte. -/
def rotWord (w : Word) : Word := (w <<< 8) ||| (w >>> 24)

/-- SubWord (R143): SBOX on each byte. -/
def subWord (w : Word) : Word :=
  let b := bytes w
  word ⟨sbox b.r0, sbox b.r1, sbox b.r2, sbox b.r3⟩

/-- The word form of an RCON entry, `RCON[j] << 24` (R124, C2). -/
def rconWord (j : Nat) : Word := word ⟨rcon j, 0x00, 0x00, 0x00⟩

/-- What is exclusive-ored with `W[i-4]` to give `W[i]`, from `W[i-1]` (R144 for multiples of four, R145 for the
other words). -/
def keyTemp (i : Nat) (prev : Word) : Word :=
  if i % 4 = 0 then subWord (rotWord prev) ^^^ rconWord (i / 4 - 1) else prev

/-- `W[i]` of R141, R144 and R145 for a 128-bit key, for every word index. -/
def keyWord (key : Quad) : Nat → Word
  | 0 => word (bytes16 key).c0
  | 1 => word (bytes16 key).c1
  | 2 => word (bytes16 key).c2
  | 3 => word (bytes16 key).c3
  | i + 4 => keyWord key i ^^^ keyTemp (i + 4) (keyWord key (i + 3))

/-- Round key `r` of an expansion `w`: `W[4r] || W[4r+1] || W[4r+2] || W[4r+3]` (R146). -/
def roundKey (w : Nat → Word) (r : Nat) : Quad :=
  quadOfWords (w (4 * r)) (w (4 * r + 1)) (w (4 * r + 2)) (w (4 * r + 3))

end Sys2Proof.Machine
end

