-- ==== Sys2Proof/Machine/Layers.lean ====
section
/-!
DEFINITION. The seven round layers (43_round_layers.md), each a function from a State to a State.
-/

namespace Sys2Proof.Machine

/-- SubBytes (R160). -/
def subBytes (s : Block) : Block := ofCells fun r c => sbox (cell s r c)

/-- InvSubBytes (R161). -/
def invSubBytes (s : Block) : Block := ofCells fun r c => invSbox (cell s r c)

/-- ShiftRows (R162): `s'[r][c] = s[r][(c + r) mod 4]`; addition of `Fin 4` is modulo 4. -/
def shiftRows (s : Block) : Block := ofCells fun r c => cell s r (c + r)

/-- InvShiftRows (R163): `s'[r][c] = s[r][(c - r) mod 4]`. -/
def invShiftRows (s : Block) : Block := ofCells fun r c => cell s r (c - r)

/-- One output byte of a diffusion layer: a matrix row times a column (R164: "the XOR of four GF(2⁸) products ...
between a matrix row and the input column"). -/
def rowTimes (m0 m1 m2 m3 : Byte) (a : Column) : Byte :=
  gfmul m0 a.r0 ^^^ gfmul m1 a.r1 ^^^ gfmul m2 a.r2 ^^^ gfmul m3 a.r3

/-- MixColumns on one column (R164). -/
def mixColumn (a : Column) : Column :=
  ⟨rowTimes 0x02 0x03 0x01 0x01 a, rowTimes 0x01 0x02 0x03 0x01 a,
    rowTimes 0x01 0x01 0x02 0x03 a, rowTimes 0x03 0x01 0x01 0x02 a⟩

/-- InvMixColumns on one column (R165). -/
def invMixColumn (a : Column) : Column :=
  ⟨rowTimes 0x0e 0x0b 0x0d 0x09 a, rowTimes 0x09 0x0e 0x0b 0x0d a,
    rowTimes 0x0d 0x09 0x0e 0x0b a, rowTimes 0x0b 0x0d 0x09 0x0e a⟩

/-- MixColumns (R164). -/
def mixColumns (s : Block) : Block :=
  ⟨mixColumn s.c0, mixColumn s.c1, mixColumn s.c2, mixColumn s.c3⟩

/-- InvMixColumns (R165). -/
def invMixColumns (s : Block) : Block :=
  ⟨invMixColumn s.c0, invMixColumn s.c1, invMixColumn s.c2, invMixColumn s.c3⟩

/-- AddRoundKey(r) under the expansion `w` (R166): word `4r + j` against column `j` (R56). -/
def addRoundKey (w : Nat → Word) (r : Nat) (s : Block) : Block :=
  ⟨s.c0.xor (bytes (w (4 * r))), s.c1.xor (bytes (w (4 * r + 1))),
    s.c2.xor (bytes (w (4 * r + 2))), s.c3.xor (bytes (w (4 * r + 3)))⟩

end Sys2Proof.Machine
end

