-- ==== Sys2Proof/Machine/Cipher.lean ====
section
/-!
DEFINITION. The rounds of the cipher pipeline and the functions Encrypt and Decrypt (section 1 of
44_cipher_pipeline.md), over an expansion `w`.
-/

namespace Sys2Proof.Machine

/-- One full encryption round (R191 step 3, R194). -/
def encRound (w : Nat → Word) (r : Nat) (s : Block) : Block :=
  addRoundKey w r (mixColumns (shiftRows (subBytes s)))

/-- The final encryption round, without MixColumns (R191 step 4, R195). -/
def encFinal (w : Nat → Word) (s : Block) : Block :=
  addRoundKey w 10 (shiftRows (subBytes s))

/-- One full decryption round (R192 step 3, R197). -/
def decRound (w : Nat → Word) (r : Nat) (s : Block) : Block :=
  invMixColumns (addRoundKey w r (invSubBytes (invShiftRows s)))

/-- The final decryption round, without InvMixColumns (R192 step 4, R198). -/
def decFinal (w : Nat → Word) (s : Block) : Block :=
  addRoundKey w 0 (invSubBytes (invShiftRows s))

/-- Encrypt (R191): round 0, rounds 1 to 9, round 10. -/
def encrypt (w : Nat → Word) (p : Block) : Block :=
  encFinal w ([1, 2, 3, 4, 5, 6, 7, 8, 9].foldl (fun s r => encRound w r s) (addRoundKey w 0 p))

/-- Decrypt (R192): round 10, rounds 9 down to 1, round 0. -/
def decrypt (w : Nat → Word) (c : Block) : Block :=
  decFinal w ([9, 8, 7, 6, 5, 4, 3, 2, 1].foldl (fun s r => decRound w r s) (addRoundKey w 10 c))

end Sys2Proof.Machine
end

