-- ==== Sys2Proof/Syntax.lean ====
section
/-!
DEFINITION. The instruction set: the four commands of the opcode table (R76, R77), and the host's own syntax around
them: the assembler lines (R81), the host actions without encoding (R82), the pseudo-instructions (R83) and the
calls of the host adapter (R240 to R243).
-/

namespace Sys2Proof

/-- The four commands, one constructor per row of the opcode table. The field is `cmd[8:4]` (R73), unsigned 0..31
(R74); the 128-bit operand stands on its own port (R72). -/
inductive Instr where
  /-- KEYEXP (R222): LEN, the number of key bytes the caller supplied. -/
  | keyexp (len : BitVec 5)
  /-- ENC (R224): LEN, the number of block bytes the caller supplied. -/
  | enc (len : BitVec 5)
  /-- DEC (R225): LEN, the number of block bytes the caller supplied. -/
  | dec (len : BitVec 5)
  /-- RKRD (R226): RIDX, the round-key index. -/
  | rkrd (ridx : BitVec 5)
deriving DecidableEq, Repr

/-- A RoundKeys value of the document's `expandKey` as the adapter holds it (R241): the eleven round keys read back
by RKRD, or, without RKRD, a handle that names the key. -/
inductive RoundKeys where
  | keys (roundKeys : List Quad)
  | handle (key : Quad)
deriving DecidableEq, Repr

/-- A call of one of the document's three library functions (R241 to R243). Byte sequences have any length and
any elements (R240). -/
inductive AdapterCall where
  | expandKey (key : List Int)
  | encryptBlock (plaintext : List Int) (roundKeys : RoundKeys)
  | decryptBlock (ciphertext : List Int) (roundKeys : RoundKeys)
deriving DecidableEq, Repr

/-- What the host does next, one line at a time (R82). -/
inductive HostLine where
  /-- Offer a command at the port (R71, R81). -/
  | offer (cmd : BitVec 16) (operand : Quad)
  /-- Hold the offer until it is accepted (R71, R82). -/
  | hold
  /-- Take back an offer that has not been accepted (R228). -/
  | withdraw
  /-- WAIT: go on when BUSY = 0 (R82). -/
  | wait
  /-- RDSTAT (R229). -/
  | rdstat
  /-- RDOUT (R230). -/
  | rdout
  /-- Call the host adapter (section 3 of 45_commands.md). -/
  | call (c : AdapterCall)
deriving DecidableEq, Repr

/-- A line of a host program as the assembler of R81 to R83 has it. -/
inductive AsmLine where
  /-- `MNEMONIC operand[, len=N]` and `RKRD r`. -/
  | command (i : Instr) (operand : Quad)
  /-- `.cmd 0xHHHH, operand`: the word passes unchanged. -/
  | raw (cmd : BitVec 16) (operand : Quad)
  | wait
  | rdstat
  | rdout
  /-- `ENCRYPT key, pt`. -/
  | encrypt (key pt : Quad)
  /-- `DECRYPT key, ct`. -/
  | decrypt (key ct : Quad)
deriving DecidableEq, Repr

end Sys2Proof
end

