-- ==== Sys2Proof/WellFormed.lean ====
section
/-!
DEFINITION. Which instructions an engine has, and which field values are the legal ones (R73, R77, R78).
-/

namespace Sys2Proof

/-- The instruction exists in an engine built with `hasRkrd` (R78: OP 0x4 is illegal without RKRD). Every 5-bit
value of LEN and RIDX is encodable (R77: a word with an illegal field value still decodes to its row). -/
def Instr.wellFormed (hasRkrd : Bool) : Instr → Bool
  | .keyexp _ => true
  | .enc _ => true
  | .dec _ => true
  | .rkrd _ => hasRkrd

/-- The field has the legal value of R77: LEN = 16, RIDX at most 10. Only such a command can have an effect other
than an error. -/
def Instr.legalField : Instr → Bool
  | .keyexp len => len == 16#5
  | .enc len => len == 16#5
  | .dec len => len == 16#5
  | .rkrd ridx => decide (ridx.toNat ≤ 10)

end Sys2Proof
end

