-- ==== Sys2Proof/Decode.lean ====
section
/-!
DEFINITION. The command decoder of R80, total on 16-bit words and rejecting by name, the encoder written from the
same table (R77), and the decoder as the host's table numbers an instruction.
-/

namespace Sys2Proof

/-- Why a word is illegal (R78). -/
inductive Illegal where
  /-- RSVD, `cmd[15:9]`, is not zero. -/
  | reservedBits
  /-- OP is 0x0 or 0x5 to 0xF. -/
  | illegalOp
  /-- OP is 0x4 and the engine has no RKRD. -/
  | rkrdAbsent
deriving DecidableEq, Repr

/-- OP, `cmd[3:0]` (R73). -/
def opField (cmd : BitVec 16) : BitVec 4 := cmd.extractLsb' 0 4

/-- LEN or RIDX, `cmd[8:4]` (R73, R74). -/
def argField (cmd : BitVec 16) : BitVec 5 := cmd.extractLsb' 4 5

/-- RSVD, `cmd[15:9]` (R73). -/
def rsvdField (cmd : BitVec 16) : BitVec 7 := cmd.extractLsb' 9 7

/-- The decode function of R80 for an engine with HAS_RKRD = `hasRkrd`. -/
def decode (hasRkrd : Bool) (cmd : BitVec 16) : Except Illegal Instr :=
  if rsvdField cmd ≠ 0#7 then .error .reservedBits
  else
    match opField cmd with
    | 0x1#4 => .ok (.keyexp (argField cmd))
    | 0x2#4 => .ok (.enc (argField cmd))
    | 0x3#4 => .ok (.dec (argField cmd))
    | 0x4#4 => if hasRkrd then .ok (.rkrd (argField cmd)) else .error .rkrdAbsent
    | _ => .error .illegalOp

/-- A command word from OP and the 5-bit field, RSVD zero (R73). -/
def packWord (op : BitVec 4) (arg : BitVec 5) : BitVec 16 := 0#7 ++ arg ++ op

/-- The word of an instruction (R77). -/
def encode : Instr → BitVec 16
  | .keyexp len => packWord 0x1#4 len
  | .enc len => packWord 0x2#4 len
  | .dec len => packWord 0x3#4 len
  | .rkrd ridx => packWord 0x4#4 ridx

/-- The instruction the decoder (HAS_RKRD at its default) reads from a table row's bits. A command is one 16-bit
word (R72), so no other length is an instruction. -/
def decodeTableWord (nbits w : Nat) : Option Instr :=
  if nbits = 16 then
    match decode Config.hasRkrdDefault (BitVec.ofNat 16 w) with
    | .ok i => some i
    | .error _ => none
  else none

end Sys2Proof
end

