-- ==== Sys2Proof/Machine/State.lean ====
section
/-!
DEFINITION. Everything the spec gives the machine, as plain data (10_state.md), the reasons a step can stop, and the
state after reset (R39).
-/

namespace Sys2Proof.Machine

/-- PHASE (R26). -/
inductive Phase where
  | idle
  | kx
  | enc
  | dec
deriving DecidableEq, Repr

/-- Who can take a step: the two agents of R20, and the outside, which drives the input rst_n (R70, R290). -/
inductive Agent where
  | host
  | engine
  | outside
deriving DecidableEq, Repr

/-- The errors of R261, each with its name there. -/
inductive ErrKind where
  | invalidKeyLength
  | invalidBlockLength
  /-- The host adapter only; never written to STATUS.ERR (R264). -/
  | byteRange
  | keyNotLoaded
  | illegalCommand
deriving DecidableEq, Repr

/-- The outcome of an adapter call (R241 to R244): a full result or one error code, never both. -/
inductive CallResult where
  | roundKeys (rks : RoundKeys)
  | block (bytes : List Byte)
  | error (code : BitVec 4)
deriving DecidableEq, Repr

/-- How far an adapter call has come (R240 to R243). -/
inductive Stage where
  /-- Nothing has been checked or offered yet. -/
  | start
  /-- A block call has offered KEYEXP with this key (R242: `loaded != k`). -/
  | loading (key : Quad)
  /-- The call has offered its own command. -/
  | running
  /-- expandKey has offered RKRD `r`, with the round keys before `r` read (R241). -/
  | reading (r : Nat) (got : List Quad)
deriving DecidableEq, Repr

/-- A call of the host adapter that has not returned yet. -/
structure Job where
  call : AdapterCall
  stage : Stage
deriving DecidableEq, Repr

/-- One value the host has received. -/
inductive HostRead where
  /-- RDSTAT returned this STATUS (R229). -/
  | status (v : BitVec 8)
  /-- RDOUT returned this value (R230). -/
  | dout (v : Quad)
  /-- An adapter call returned. -/
  | callResult (r : CallResult)
deriving DecidableEq, Repr

/-- Why the machine stops with a fault. -/
inductive Fault where
  /-- ReadUnwrittenDOUT (R280): raised by a read of DOUT with BUSY = 0 and DOUT_VALID = 0 (R230). The spec's own model fault, the
  only one it lists; safe. -/
  | readUnwrittenDOUT
  /-- Raised by a micro-step with PHASE not IDLE and ROUND or WIDX outside the ranges of R28 and R29, for which no
  rule gives a step. No run reaches such a state (DEDUCED, log 11); safe. -/
  | sequencerStuck
deriving DecidableEq, Repr

/-- Why a step has no meaning. -/
inductive Refusal where
  /-- Raised by `exec` for an instruction with no meaning yet; none is left. Safe. -/
  | notModelled (mnemonic : String)
  /-- Raised by `encryptBlock` and `decryptBlock` for a RoundKeys value that `expandKey` cannot have made (R242,
  U21; DEDUCED, log 20: "refuse"). Safe. -/
  | foreignRoundKeys
deriving DecidableEq, Repr

/-- The machine: one engine instance with its ports, and its host. -/
structure State where
  /-- Port rst_n (R70, R290); `false` is 0, reset asserted. -/
  rstN : Bool
  /-- Port cmd_valid (R70, R71). -/
  cmdValid : Bool
  /-- Port cmd (R70, R72). -/
  cmd : BitVec 16
  /-- Port operand (R70, R75). -/
  operand : Quad
  /-- STATE (R22). -/
  st : Block
  /-- RK (R23, R52); `none` is a word's "unwritten" (R38). -/
  rk : Vector (Option Word) 44
  /-- KEY_VALID (R24). -/
  keyValid : Bool
  /-- BUSY (R25). -/
  busy : Bool
  /-- PHASE (R26). -/
  phase : Phase
  /-- DOUT (R27); `none` is "unwritten" (R38). -/
  dout : Option Quad
  /-- DOUT_VALID (R27). -/
  doutValid : Bool
  /-- STATUS.ERR (R30, R31). -/
  err : BitVec 4
  /-- ROUND (R28). -/
  round : BitVec 4
  /-- WIDX (R29). -/
  widx : BitVec 6
  /-- HAS_RKRD (R11): a build parameter, constant (DESIGN CHOICE, log 4). -/
  hasRkrd : Bool
  /-- The adapter's `loaded` tag (R245). -/
  loaded : Option Quad
  /-- The model's own: the host lines still to run, next one first (R82, DESIGN CHOICE, log 8). -/
  script : List HostLine
  /-- The adapter call in flight (R240 to R243), if any: the host is inside it (DESIGN CHOICE, log 10). -/
  job : Option Job
  /-- The model's own: the levels the outside is still to drive on rst_n, next one first; `true` is 1 (R290,
  DESIGN CHOICE, log 9). -/
  resetPlan : List Bool
  /-- The model's own: whose turn each step is, next one first (DESIGN CHOICE, log 6). -/
  schedule : List Agent
  /-- The model's own: what the host has received, oldest first (DESIGN CHOICE, log 8). -/
  reads : List HostRead
  /-- The model's own: how many free DOUT values have been drawn (R65, DESIGN CHOICE, log 7). -/
  draws : Nat
deriving DecidableEq, Repr

/-- What one step answers. -/
abbrev Result := Host.Outcome State Fault Refusal

/-- The machine right after reset (R39, R291, R293). STATE, ROUND and WIDX, which R39 leaves unspecified, are 0
(DESIGN CHOICE, log 2); the ports are quiet (DESIGN CHOICE, log 3) and the host has nothing to do (DESIGN CHOICE, log 8). -/
def State.reset : State where
  rstN := true
  cmdValid := false
  cmd := 0#16
  operand := 0#128
  st := Block.zero
  rk := Vector.replicate 44 none
  keyValid := false
  busy := false
  phase := .idle
  dout := none
  doutValid := false
  err := 0#4
  round := 0#4
  widx := 0#6
  hasRkrd := Config.hasRkrdDefault
  loaded := none
  script := []
  job := none
  resetPlan := []
  schedule := []
  reads := []
  draws := 0

end Sys2Proof.Machine
end

