-- ==== Sys2Proof/Machine/Flags.lean ====
section
/-!
DEFINITION. What the host sees of the flags: STATUS (R30) and cmd_ready (R70, R71), and the error codes (R261).
-/

namespace Sys2Proof.Machine

/-- The code of an error (R261). -/
def errCode : ErrKind → BitVec 4
  | .invalidKeyLength => 1#4
  | .invalidBlockLength => 2#4
  | .byteRange => 3#4
  | .keyNotLoaded => 4#4
  | .illegalCommand => 5#4

/-- STATUS (R30): ERR in bits 7:4, bit 3 hard-wired 0, DOUT_VALID, KEY_VALID, BUSY. -/
def status (s : State) : BitVec 8 :=
  s.err ++ 0#1 ++ BitVec.ofBool s.doutValid ++ BitVec.ofBool s.keyValid ++ BitVec.ofBool s.busy

/-- Port cmd_ready (R70): `not BUSY`. -/
def cmdReady (s : State) : Bool := !s.busy

end Sys2Proof.Machine
end

