-- ==== Sys2Proof/Machine/Ops.lean ====
section
/-!
DEFINITION. The operations every meaning shares: reading RK, writing DOUT, raising an error, completing a
command, taking an offer from the port, and the engine's reset.
-/

namespace Sys2Proof.Machine

/-- Go on from a next state; a fault or a refusal stays. -/
def bindNext {α β : Type} (o : Host.Outcome α Fault Refusal) (f : α → Host.Outcome β Fault Refusal) :
    Host.Outcome β Fault Refusal :=
  match o with
  | .next a => f a
  | .fault e => .fault e
  | .refused r => .refused r

/-- Change the next state; a fault or a refusal stays. -/
def mapNext {α β : Type} (f : α → β) (o : Host.Outcome α Fault Refusal) : Host.Outcome β Fault Refusal :=
  bindNext o fun a => .next (f a)

/-- `RK[i]` (R15, R52). An unwritten word (R38) reads as a free value; no rule forms such a read (DEDUCED, log 1). -/
def rkWord (s : State) (i : Nat) : Word :=
  match s.rk[i]? with
  | some (some w) => w
  | _ => Config.unwrittenWord i

/-- `DOUT <- v` with `DOUT_VALID <- 1` (R27: set whenever DOUT is written). -/
def writeDout (v : Quad) (s : State) : State :=
  { s with dout := some v, doutValid := true }

/-- `complete` (R17): BUSY <- 0, PHASE <- IDLE, STATUS.ERR <- 0. -/
def complete (s : State) : State :=
  { s with busy := false, phase := .idle, err := 0#4 }

/-- `raise E` (R16, R260): the command ends at once with its code in STATUS.ERR and no other effect. This is the
engine's whole exception mechanism: nothing is saved, control goes nowhere, and there is no return (R271, R272). -/
def raise (e : ErrKind) (s : State) : Result :=
  .next { s with err := errCode e }

/-- The accepting step takes the offer from the port: the host drops cmd_valid and goes on (R71, R82, DESIGN CHOICE, log 5). -/
def takeOffer (s : State) : State :=
  { s with cmdValid := false }

/-- Drive a command onto the port (R70, R71). -/
def driveCommand (cmd : BitVec 16) (operand : Quad) (s : State) : State :=
  { s with cmdValid := true, cmd := cmd, operand := operand }

/-- The effect of rst_n = 0 (R291, R292): every register of the engine takes its value of R39, and the adapter's tag is
reset with it (R293, R245). The ports, the build parameter and the host's own program stay. -/
def resetEngine (s : State) : State :=
  { s with
    st := Block.zero
    rk := Vector.replicate 44 none
    keyValid := false
    busy := false
    phase := .idle
    dout := none
    doutValid := false
    err := 0#4
    round := 0#4
    widx := 0#6
    loaded := none }

end Sys2Proof.Machine
end

