-- ==== Sys2Proof/Machine/Operands.lean ====
section
/-!
DEFINITION. The operand forms of the commands: the 16-byte operand (R75), the LEN and RIDX checks (R74, R226), and
the order of the error checks (R267).
-/

namespace Sys2Proof.Machine

/-- `bytes16(operand)`: the key or block on the operand port, captured at acceptance (R64, R75). -/
def operandBlock (s : State) : Block := bytes16 s.operand

/-- The legal LEN: 16 bytes (R74). -/
def lenIs16 (len : BitVec 5) : Bool := len == 16#5

/-- RIDX names a round key: at most 10 (R226). -/
def ridxInRange (ridx : BitVec 5) : Bool := decide (ridx.toNat ≤ 10)

/-- Check 2 and 3 of R267: errors of the request itself. -/
def requestError (hasRkrd : Bool) : Instr → Option ErrKind
  | .keyexp len => if lenIs16 len then none else some .invalidKeyLength
  | .enc len => if lenIs16 len then none else some .invalidBlockLength
  | .dec len => if lenIs16 len then none else some .invalidBlockLength
  | .rkrd ridx => if hasRkrd && ridxInRange ridx then none else some .illegalCommand

/-- Check 4 of R267: the command needs a loaded key. -/
def needsKey : Instr → Bool
  | .keyexp _ => false
  | .enc _ => true
  | .dec _ => true
  | .rkrd _ => true

/-- `accept_errors` of R267 for a decoded command: the first check that applies. -/
def acceptError (i : Instr) (s : State) : Option ErrKind :=
  match requestError s.hasRkrd i with
  | some e => some e
  | none => if needsKey i && !s.keyValid then some .keyNotLoaded else none

end Sys2Proof.Machine
end

