-- ==== Sys2Proof/Machine/Commands.lean ====
section
/-!
DEFINITION. The meanings of the four commands at acceptance (section 2 of 45_commands.md). Acceptance is one step:
all writes take effect together (R220). The micro-steps a command starts are in Machine/Engine.lean.
-/

namespace Sys2Proof.Machine

/-- `for i = 0..3: RK[i] <- word(key[4i], key[4i+1], key[4i+2], key[4i+3])` (R222, R57). -/
def storeKey (k : Block) (s : State) : State :=
  { s with
    rk := (((s.rk.setIfInBounds 0 (some (word k.c0))).setIfInBounds 1 (some (word k.c1))).setIfInBounds 2
      (some (word k.c2))).setIfInBounds 3 (some (word k.c3)) }

/-- The acceptance action of KEYEXP (R222): RK[0..3] from the key, KEY_VALID <- 0, WIDX <- 4, PHASE <- KX,
BUSY <- 1. -/
def startKeyExpansion (s : State) : State :=
  { storeKey (operandBlock s) s with keyValid := false, widx := 4#6, phase := .kx, busy := true }

/-- The acceptance action of ENC and DEC (R224, R225): STATE from the block, ROUND and PHASE as the command says,
BUSY <- 1. -/
def startCipher (phase : Phase) (round : BitVec 4) (s : State) : State :=
  { s with st := operandBlock s, round := round, phase := phase, busy := true }

/-- KEYEXP (R222). -/
def execKeyexp (len : BitVec 5) (s : State) : Result :=
  if lenIs16 len = false then raise .invalidKeyLength s
  else .next (startKeyExpansion s)

/-- ENC (R224). -/
def execEnc (len : BitVec 5) (s : State) : Result :=
  if lenIs16 len = false then raise .invalidBlockLength s
  else if s.keyValid = false then raise .keyNotLoaded s
  else .next (startCipher .enc 0#4 s)

/-- DEC (R225). -/
def execDec (len : BitVec 5) (s : State) : Result :=
  if lenIs16 len = false then raise .invalidBlockLength s
  else if s.keyValid = false then raise .keyNotLoaded s
  else .next (startCipher .dec 10#4 s)

/-- RKRD (R226): completes at acceptance. Without HAS_RKRD the command is illegal (R78, DEDUCED, log 18). -/
def execRkrd (ridx : BitVec 5) (s : State) : Result :=
  if s.hasRkrd = false then raise .illegalCommand s
  else if ridxInRange ridx = false then raise .illegalCommand s
  else if s.keyValid = false then raise .keyNotLoaded s
  else .next (complete (writeDout (roundKey (rkWord s) ridx.toNat) s))

end Sys2Proof.Machine
end

