-- ==== Sys2Proof/Machine/Dispatch.lean ====
section
/-!
DEFINITION. One arm per instruction (the opcode table of R76): what the accepting step does with a decoded command.
-/

namespace Sys2Proof.Machine

def exec (i : Instr) (s : State) : Host.Outcome State Fault Refusal :=
  match i with
  | .keyexp len => Sys2Proof.Machine.execKeyexp len s
  | .enc len => Sys2Proof.Machine.execEnc len s
  | .dec len => Sys2Proof.Machine.execDec len s
  | .rkrd ridx => Sys2Proof.Machine.execRkrd ridx s

end Sys2Proof.Machine
end

