-- ==== Sys2Proof/Machine/Engine.lean ====
section
/-!
DEFINITION. The engine agent: the accepting step (R71, R220) and the micro-steps (R147, R148, R193 to R198).
-/

namespace Sys2Proof.Machine

/-- The two writes of a KX_STEP (R147): RK[WIDX] <- w, WIDX <- WIDX + 1. -/
def deriveWord (w : Word) (s : State) : State :=
  { s with rk := s.rk.setIfInBounds s.widx.toNat (some w), widx := s.widx + 1#6 }

/-- KX_DONE (R148): KEY_VALID <- 1, complete. -/
def finishExpansion (s : State) : State := complete { s with keyValid := true }

/-- KX_STEP (R147), with KX_DONE (R148) in the step that writes RK[43]. -/
def kxStep (s : State) : Result :=
  let i := s.widx.toNat
  if 4 ≤ i ∧ i ≤ 43 then
    let t := deriveWord (rkWord s (i - 4) ^^^ keyTemp i (rkWord s (i - 1))) s
    if i = 43 then .next (finishExpansion t) else .next t
  else .fault .sequencerStuck

/-- STATE <- b, and the round index moves on (R193, R194, R196, R197). -/
def nextRound (b : Block) (round : BitVec 4) (s : State) : State :=
  { s with st := b, round := round }

/-- The last micro-step of ENC and DEC (R195, R198): STATE <- b, DOUT <- vec128(b), DOUT_VALID <- 1, complete. ROUND
is not moved past its last value. -/
def finishCipher (b : Block) (s : State) : State :=
  complete (writeDout (vec128 b) { s with st := b })

/-- ENC_STEP (R193 at ROUND 0, R194 at ROUND 1 to 9, R195 at ROUND 10). -/
def encStep (s : State) : Result :=
  let r := s.round.toNat
  if r = 0 then .next (nextRound (addRoundKey (rkWord s) 0 s.st) 1#4 s)
  else if r ≤ 9 then .next (nextRound (encRound (rkWord s) r s.st) (s.round + 1#4) s)
  else if r = 10 then .next (finishCipher (encFinal (rkWord s) s.st) s)
  else .fault .sequencerStuck

/-- DEC_STEP (R196 at ROUND 10, R197 at ROUND 9 to 1, R198 at ROUND 0). -/
def decStep (s : State) : Result :=
  let r := s.round.toNat
  if r = 10 then .next (nextRound (addRoundKey (rkWord s) 10 s.st) 9#4 s)
  else if r = 0 then .next (finishCipher (decFinal (rkWord s) s.st) s)
  else if r ≤ 9 then .next (nextRound (decRound (rkWord s) r s.st) (s.round - 1#4) s)
  else .fault .sequencerStuck

/-- A micro-step is enabled (R190): PHASE is not IDLE. -/
def microEnabled (s : State) : Bool := decide (s.phase ≠ .idle)

/-- One micro-step of the sequence PHASE names (R190). With PHASE = IDLE the engine takes none and keeps its state
(R279). -/
def microStep (s : State) : Result :=
  match s.phase with
  | .idle => .next s
  | .kx => kxStep s
  | .enc => encStep s
  | .dec => decStep s

/-- `n` micro-steps. -/
def microSteps : Nat → State → Result
  | 0, s => .next s
  | n + 1, s => bindNext (microStep s) (microSteps n)

/-- A command is offered and the engine can take it (R71): cmd_valid = 1 and cmd_ready = 1. -/
def offerReady (s : State) : Bool := s.cmdValid && cmdReady s

/-- The accepting step (R220): decode the word on the port and run it, or raise IllegalCommand for an illegal word
(R227). -/
def accept (s : State) : Result :=
  match decode s.hasRkrd s.cmd with
  | .ok i => exec i (takeOffer s)
  | .error _ => raise .illegalCommand (takeOffer s)

/-- What the engine does next with reset released: accept an offered command, else its micro-step. -/
def engineStep (s : State) : Result :=
  if offerReady s then accept s else microStep s

end Sys2Proof.Machine
end

