-- ==== Sys2Proof/Machine/HostReads.lean ====
section
/-!
DEFINITION. The host's two reads (R229, R230). They change nothing of the engine.
-/

namespace Sys2Proof.Machine

/-- The host receives a value. -/
def record (r : HostRead) (s : State) : State := { s with reads := s.reads ++ [r] }

/-- RDSTAT (R229): the current STATUS, at any time. -/
def rdstat (s : State) : Result := .next (record (.status (status s)) s)

/-- Read DOUT, branch by branch as R230's pseudocode: with BUSY = 1 any value, drawn afresh (R65, DESIGN CHOICE, log 7); with
DOUT_VALID = 0 the model fault that R280 lists (U2: "fault"); else DOUT. -/
def readDout (s : State) : Host.Outcome (State × Quad) Fault Refusal :=
  if s.busy then .next ({ s with draws := s.draws + 1 }, Config.busyDout s.draws)
  else if s.doutValid = false then .fault .readUnwrittenDOUT
  else .next (s, s.dout.getD Config.unwrittenDout)

/-- RDOUT (R230). -/
def rdout (s : State) : Result :=
  mapNext (fun p => record (.dout p.2) p.1) (readDout s)

end Sys2Proof.Machine
end

