-- ==== Sys2Proof/Machine/Adapter.lean ====
section
/-!
DEFINITION. The host adapter: the document's three library functions over the commands (section 3 of
45_commands.md). A call is a job of the host that goes on one host action at a time: check and offer, WAIT and read
STATUS, RDOUT. The engine and rst_n go on meanwhile (DESIGN CHOICE, log 10).
-/

namespace Sys2Proof.Machine

/-- Some element is no byte (R240, ByteRangeError). -/
def outOfRange (xs : List Int) : Bool := xs.any fun x => decide (x < 0) || decide (255 < x)

/-- `vec128` of a list of byte values, the first most significant (R55). -/
def vec128List (xs : List Int) : Quad :=
  xs.foldl (fun acc x => (acc <<< 8) ||| BitVec.ofInt 128 x) 0#128

/-- `LEN = min(n, 31)` (R74, R240). -/
def lenField (n : Nat) : BitVec 5 := BitVec.ofNat 5 (min n 31)

/-- The 44 words of eleven round keys, in index order (R146). -/
def wordsOfKeys (ks : List Quad) : List Word :=
  ks.flatMap fun k => [k.extractLsb' 96 32, k.extractLsb' 64 32, k.extractLsb' 32 32, k.extractLsb' 0 32]

/-- Eleven round keys are an expansion: every word from 4 on follows R144 or R145. -/
def isExpansion (ks : List Quad) : Bool :=
  decide (ks.length = 11) &&
    (List.range 40).all fun j =>
      let w (i : Nat) : Word := (wordsOfKeys ks).getD i 0#32
      w (j + 4) == w j ^^^ keyTemp (j + 4) (w (j + 3))

/-- Round key 0 of a RoundKeys value that `expandKey` can have made (R242, U21; DEDUCED, log 20). -/
def keyOfRoundKeys : RoundKeys → Option Quad
  | .keys ks => if isExpansion ks then ks.head? else none
  | .handle k => some k

/-- The byte sequence a call checks and sends. -/
def callBytes : AdapterCall → List Int
  | .expandKey key => key
  | .encryptBlock pt _ => pt
  | .decryptBlock ct _ => ct

/-- The command a call sends (R241 to R243), with a LEN. -/
def callCommand : AdapterCall → BitVec 5 → Instr
  | .expandKey _ => .keyexp
  | .encryptBlock _ _ => .enc
  | .decryptBlock _ _ => .dec

/-- The round keys a block call is given (R242, R243). -/
def callRoundKeys : AdapterCall → Option RoundKeys
  | .expandKey _ => none
  | .encryptBlock _ rks => some rks
  | .decryptBlock _ rks => some rks

/-- The call goes on to a stage. -/
def toStage (c : AdapterCall) (g : Stage) (s : State) : State := { s with job := some ⟨c, g⟩ }

/-- The call returns: a full result or one error (R244). -/
def returnCall (r : CallResult) (s : State) : State := record (.callResult r) { s with job := none }

/-- `loaded = k` (R241, R242). -/
def setLoaded (k : Quad) (s : State) : State := { s with loaded := some k }

/-- `submit`'s offer of the call's own command (R240): LEN = min(n, 31), the operand 0 unless n = 16. -/
def offerCommand (c : AdapterCall) (s : State) : State :=
  let xs := callBytes c
  toStage c .running (driveCommand (encode (callCommand c (lenField xs.length)))
    (if xs.length = 16 then vec128List xs else 0#128) s)

/-- A block call's `submit(KEYEXP, k)` (R242). -/
def offerKey (c : AdapterCall) (k : Quad) (s : State) : State :=
  toStage c (.loading k) (driveCommand (encode (.keyexp 16#5)) k s)

/-- expandKey's `RKRD r` (R241), with the round keys read so far. -/
def offerRoundKeyRead (c : AdapterCall) (r : Nat) (got : List Quad) (s : State) : State :=
  toStage c (.reading r got) (driveCommand (encode (.rkrd (BitVec.ofNat 5 r))) 0#128 s)

/-- A call's first action: the range check, then, for a block call, the length check and the key, then an offer (R240,
R242). -/
def startCall (c : AdapterCall) (s : State) : Result :=
  if outOfRange (callBytes c) then .next (returnCall (.error (errCode .byteRange)) s)
  else
    match callRoundKeys c with
    | none => .next (offerCommand c s)
    | some rks =>
      if (callBytes c).length ≠ 16 then .next (offerCommand c s)
      else
        match keyOfRoundKeys rks with
        | none => .refused .foreignRoundKeys
        | some k => if s.loaded = some k then .next (offerCommand c s) else .next (offerKey c k s)

/-- After the call's own command: return its error, or go on (R241, R242). A block call returns the bytes of DOUT;
expandKey records the key and reads the round keys back, or returns a handle without RKRD. -/
def commandDone (c : AdapterCall) (s : State) : Result :=
  if s.err ≠ 0#4 then .next (returnCall (.error s.err) s)
  else
    match callRoundKeys c with
    | some _ => mapNext (fun p => returnCall (.block (byteList (bytes16 p.2))) p.1) (readDout s)
    | none =>
      let k := vec128List (callBytes c)
      if s.hasRkrd then .next (offerRoundKeyRead c 0 [] (setLoaded k s))
      else .next (returnCall (.roundKeys (.handle k)) (setLoaded k s))

/-- After `RKRD r`: RDOUT, and on to round key r + 1 or the return of all eleven (R241). -/
def roundKeyDone (c : AdapterCall) (r : Nat) (got : List Quad) (s : State) : Result :=
  mapNext (fun p =>
    if r < 10 then offerRoundKeyRead c (r + 1) (got ++ [p.2]) p.1
    else returnCall (.roundKeys (.keys (got ++ [p.2]))) p.1) (readDout s)

/-- One action of the call in flight. -/
def jobStep (j : Job) (s : State) : Result :=
  match j.stage with
  | .start => startCall j.call s
  | .loading k => .next (offerCommand j.call (setLoaded k s))
  | .running => commandDone j.call s
  | .reading r got => roundKeyDone j.call r got s

/-- The call can go on: it needs a free port and reset released to offer its first command, and waits for the command it
has offered to be accepted and completed (WAIT, R240). An out-of-range input needs neither. That a call waits for the
release of reset is a DESIGN CHOICE, log 10. -/
def jobEnabled (j : Job) (s : State) : Bool :=
  match j.stage with
  | .start => outOfRange (callBytes j.call) || (s.rstN && !s.cmdValid)
  | .loading _ => !s.cmdValid && !s.busy
  | .running => !s.cmdValid && !s.busy
  | .reading _ _ => !s.cmdValid && !s.busy

/-- The call in flight has offered a command. -/
def callIssued (s : State) : Bool :=
  match s.job with
  | none => false
  | some ⟨_, .start⟩ => false
  | some ⟨_, .loading _⟩ => true
  | some ⟨_, .running⟩ => true
  | some ⟨_, .reading _ _⟩ => true

/-- Reset abandons a call that has offered a command, with its offer: no result is returned (R292: "no partial results"
across reset; DESIGN CHOICE, log 10). -/
def abandonCall (s : State) : State :=
  if callIssued s then { s with job := none, cmdValid := false } else s

end Sys2Proof.Machine
end

