-- ==== Sys2Proof/Machine/Scheduler.lean ====
section
/-!
DEFINITION. The host agent's lines (R82, R228 to R230), the outside's drive of rst_n (R290), whose turn a step is (R203,
R303), and the machine's step.
-/

namespace Sys2Proof.Machine

/-- The host can go on (R82): with its adapter call, or with its next line. An offer waits while an earlier one is still
at the port (R71: it is accepted unchanged), `hold` until the port is free, WAIT for BUSY = 0; the reads never wait
(R229, R230), nor does taking an offer back (R228). -/
def hostEnabled (s : State) : Bool :=
  match s.job with
  | some j => jobEnabled j s
  | none =>
    match s.script with
    | [] => false
    | .offer _ _ :: _ => !s.cmdValid
    | .hold :: _ => !s.cmdValid
    | .withdraw :: _ => true
    | .wait :: _ => !s.busy
    | .rdstat :: _ => true
    | .rdout :: _ => true
    | .call _ :: _ => true

/-- What one host line does. -/
def hostLine (l : HostLine) (s : State) : Result :=
  match l with
  | .offer cmd operand => .next (driveCommand cmd operand s)
  | .hold => .next s
  | .withdraw => .next (takeOffer s)
  | .wait => .next s
  | .rdstat => rdstat s
  | .rdout => rdout s
  | .call c => .next (toStage c .start s)

/-- The host goes on with its adapter call; with none in flight it runs its next line and goes on to the one after it. -/
def hostStep (s : State) : Result :=
  match s.job with
  | some j => jobStep j s
  | none =>
    match s.script with
    | [] => .next s
    | l :: rest => hostLine l { s with script := rest }

/-- The outside drives the next level on rst_n (R290, DESIGN CHOICE, log 9). -/
def outsideStep (s : State) : State :=
  match s.resetPlan with
  | [] => s
  | level :: rest => { s with rstN := level, resetPlan := rest }

/-- The agent can take a step. -/
def agentEnabled (a : Agent) (s : State) : Bool :=
  match a with
  | .engine => microEnabled s
  | .host => hostEnabled s
  | .outside => !s.resetPlan.isEmpty

/-- The agent's step; with none nothing changes (R279). -/
def agentStep (a : Option Agent) (s : State) : Result :=
  match a with
  | some .engine => microStep s
  | some .host => hostStep s
  | some .outside => .next (outsideStep s)
  | none => .next s

/-- Who goes when it is nobody's turn, or the turn of an agent that cannot go: the engine first (R303), then the host,
then the outside (DESIGN CHOICE, log 6). -/
def firstEnabled (s : State) : Option Agent :=
  if agentEnabled .engine s then some .engine
  else if agentEnabled .host s then some .host
  else if agentEnabled .outside s then some .outside
  else none

/-- Who goes in a step that is no acceptance. -/
def chooseAgent (turn : Option Agent) (s : State) : Option Agent :=
  match turn with
  | some a => if agentEnabled a s then some a else firstEnabled s
  | none => firstEnabled s

/-- The host's next line is a read of STATUS or DOUT. -/
def readIsNext (s : State) : Bool :=
  match s.job, s.script with
  | none, .rdstat :: _ => true
  | none, .rdout :: _ => true
  | _, _ => false

/-- In an accepting step that is the host's turn, a read that is the host's next line sees the registers before the
acceptance (R229: at any time; R71: the acceptance does not wait; DESIGN CHOICE, log 6). -/
def hostLook (turn : Option Agent) (s : State) : Result :=
  if turn = some .host ∧ readIsNext s = true then hostStep s else .next s

/-- Every step uses up one turn of the schedule (DESIGN CHOICE, log 6). -/
def nextTurn (s : State) : State := { s with schedule := s.schedule.tail }

/-- One step with reset released: an offered command is accepted whenever the engine is ready (R71); else the agent whose
turn it is goes. -/
def runningStep (turn : Option Agent) (s : State) : Result :=
  if offerReady s then bindNext (hostLook turn s) accept else agentStep (chooseAgent turn s) s

/-- What rst_n = 0 does: the engine takes its reset values (R291) and a call in flight is abandoned (R292). -/
def holdInReset (s : State) : State := resetEngine (abandonCall s)

/-- One step with rst_n = 0: nothing is accepted (R290); the host or the outside goes. -/
def resetStep (turn : Option Agent) (s : State) : Result :=
  agentStep (chooseAgent turn (holdInReset s)) (holdInReset s)

/-- One step of the machine. -/
def machineStep (s : State) : Result :=
  if s.rstN then runningStep s.schedule.head? (nextTurn s) else resetStep s.schedule.head? (nextTurn s)

/-- Put a command word where the next step takes it: at the port with reset released, the engine idle (R71) and nobody
else's turn. -/
def placeCommand (cmd : BitVec 16) (s : State) : State :=
  { s with rstN := true, busy := false, phase := .idle, cmdValid := true, cmd := cmd, schedule := [] }

end Sys2Proof.Machine
end

