-- ==== Sys2Proof/Machine/Step.lean ====
section
/-!
DEFINITION. One step of the machine, and where a command word stands so that the next step runs it (DESIGN CHOICE, log 14).
-/

namespace Sys2Proof.Machine

/-- One step: an accepted command, a micro-step, an action of the host, or a level on rst_n (R20, R71, R190, R290). -/
def step (s : State) : Host.Outcome State Fault Refusal := machineStep s

/-- `s` with a command word of `nbits` bits offered at the port, so that the very next step accepts it. The operand
port keeps its value. -/
def State.withFetchWord (s : State) (nbits w : Nat) : State :=
  placeCommand (BitVec.ofNat 16 (w % 2 ^ nbits)) s

end Sys2Proof.Machine
end

