-- ==== Sys2Proof/Machine/Assembler.lean ====
section
/-!
DEFINITION. The assembler of R81 and the pseudo-instructions of R83: each line as the host lines it stands for.
-/

namespace Sys2Proof.Machine

/-- The host lines of one assembler line (R81 to R83). A command line is offered and held until accepted (R82). -/
def assembleLine : AsmLine → List HostLine
  | .command i operand => [.offer (encode i) operand, .hold]
  | .raw cmd operand => [.offer cmd operand, .hold]
  | .wait => [.wait]
  | .rdstat => [.rdstat]
  | .rdout => [.rdout]
  | .encrypt key pt =>
    [.offer (encode (.keyexp 16#5)) key, .hold, .wait, .offer (encode (.enc 16#5)) pt, .hold, .wait, .rdout]
  | .decrypt key ct =>
    [.offer (encode (.keyexp 16#5)) key, .hold, .wait, .offer (encode (.dec 16#5)) ct, .hold, .wait, .rdout]

/-- The host lines of a program. -/
def assemble (p : List AsmLine) : List HostLine := p.flatMap assembleLine

/-- A machine whose host is about to run a program. -/
def loadProgram (p : List AsmLine) (s : State) : State := { s with script := assemble p }

end Sys2Proof.Machine
end

