-- ==== Sys2Proof/Machine/Instances.lean ====
section
/-!
DEFINITION. Several engine instances (R21, R277): each has its own copy of every piece of state and its own port and
host, and they share only the constant ROMs. One of them steps at a time (DESIGN CHOICE, log 13), and what they show on
DOUT while BUSY is one free function of each one's own count of such reads (DESIGN CHOICE, log 7).
-/

namespace Sys2Proof.Machine

/-- N_ENGINES instances, by position. -/
abbrev Instances := List State

/-- `n` instances right after reset (R39, R277: no start-up order). -/
def resetInstances (n : Nat) : Instances := List.replicate n State.reset

/-- Instance `k` takes one step; with no such instance nothing changes. A fault or refusal of its host (R280, U21) ends the
run of the whole list, the other instances included: what becomes of them the spec does not say (DESIGN CHOICE, log 13). -/
def stepInstance (k : Nat) (es : Instances) : Host.Outcome Instances Fault Refusal :=
  match es[k]? with
  | some e => mapNext (fun e' => es.set k e') (step e)
  | none => .next es

end Sys2Proof.Machine
end

