-- ==== Sys2Proof/Machine/Timing.lean ====
section
/-!
DEFINITION. The latency parameters of R302. The model has no time; no step reads these.
-/

namespace Sys2Proof.Machine

/-- Clock cycles from a command's acceptance to BUSY = 0 (R302): 0 for RKRD and for every erroring command, else the
parameter, which is at least 1 and does not depend on key or data. -/
def commandLatency (i : Instr) (s : State) : Nat :=
  match acceptError i s with
  | some _ => 0
  | none =>
    match i with
    | .keyexp _ => Config.latKeyexpLessOne + 1
    | .enc _ => Config.latEncLessOne + 1
    | .dec _ => Config.latDecLessOne + 1
    | .rkrd _ => 0

/-- Micro-steps from a command's acceptance to its completion (R200): 40, 11, 11, and 0 for RKRD and errors. -/
def commandMicroSteps (i : Instr) (s : State) : Nat :=
  match acceptError i s with
  | some _ => 0
  | none =>
    match i with
    | .keyexp _ => 40
    | .enc _ => 11
    | .dec _ => 11
    | .rkrd _ => 0

end Sys2Proof.Machine
end

