-- ==== Sys2Proof/Safety.lean ====
section
/-!
DEFINITION. The terms in which claims speak of a safe run: the invariant of the machine, what stays when only the
engine works, and which registers no rule reads in a phase.
-/

namespace Sys2Proof.Machine

/-- RK word `i` exists and has been written (R38). -/
def rkWritten (s : State) (i : Nat) : Prop := ∃ w, s.rk[i]? = some (some w)

/-- The words of RK below index `n` follow the recurrence of R144 and R145. -/
def rkExpandedBelow (s : State) (n : Nat) : Prop :=
  ∀ i, i + 4 < n → rkWord s (i + 4) = rkWord s i ^^^ keyTemp (i + 4) (rkWord s (i + 3))

/-- The control registers fit together. -/
structure ControlInv (s : State) : Prop where
  /-- BUSY = 1 exactly when PHASE is not IDLE (R26). -/
  busy_iff : s.busy = true ↔ s.phase ≠ .idle
  /-- While expanding a key, WIDX names a word to derive (R29) and KEY_VALID is 0 (R297). -/
  widx_range : s.phase = .kx → 4 ≤ s.widx.toNat ∧ s.widx.toNat ≤ 43
  key_window : s.phase = .kx → s.keyValid = false
  /-- While a block is in the pipeline, ROUND is at most 10 (R28) and a key is loaded (R265). -/
  round_range : s.phase = .enc ∨ s.phase = .dec → s.round.toNat ≤ 10
  cipher_key : s.phase = .enc ∨ s.phase = .dec → s.keyValid = true
  /-- ERR takes only the codes of R261 that the engine produces (R30, U7). -/
  err_code : s.err = 0#4 ∨ s.err = 1#4 ∨ s.err = 2#4 ∨ s.err = 4#4 ∨ s.err = 5#4
  /-- DOUT holds a value exactly when DOUT_VALID = 1 (R27, R38). -/
  dout_valid : s.doutValid = s.dout.isSome

/-- The round-key store holds what KEY_VALID and WIDX say (R24, R38, R147). -/
structure KeyStoreInv (s : State) : Prop where
  /-- KEY_VALID = 1: all 44 words are written and are an expansion (R24). -/
  valid_written : s.keyValid = true → ∀ i, i < 44 → rkWritten s i
  valid_expanded : s.keyValid = true → rkExpandedBelow s 44
  /-- PHASE = KX: so are the words below WIDX (R147: no step reads an unwritten word). -/
  partial_written : s.phase = .kx → ∀ i, i < s.widx.toNat → rkWritten s i
  partial_expanded : s.phase = .kx → rkExpandedBelow s s.widx.toNat

/-- The invariant of the machine. -/
structure Inv (s : State) : Prop where
  control : ControlInv s
  keyStore : KeyStoreInv s

/-- The ports, the build parameter and the host's side are the same in both states. -/
structure SameOutside (s t : State) : Prop where
  rstN : t.rstN = s.rstN
  cmdValid : t.cmdValid = s.cmdValid
  cmd : t.cmd = s.cmd
  operand : t.operand = s.operand
  hasRkrd : t.hasRkrd = s.hasRkrd
  loaded : t.loaded = s.loaded
  script : t.script = s.script
  job : t.job = s.job
  resetPlan : t.resetPlan = s.resetPlan
  schedule : t.schedule = s.schedule
  reads : t.reads = s.reads
  draws : t.draws = s.draws

/-- Reset is released, nothing is offered and nothing runs. -/
structure Quiet (s : State) : Prop where
  rstN : s.rstN = true
  cmdValid : s.cmdValid = false
  busy : s.busy = false
  phase : s.phase = .idle

/-- `n` steps of the machine. -/
def steps : Nat → State → Result
  | 0, s => .next s
  | n + 1, s => bindNext (step s) (steps n)

/-- The host, at rest, is about to call the adapter and to go on with `rest`, and reset stays released. -/
structure Calling (c : AdapterCall) (rest : List HostLine) (s : State) : Prop where
  quiet : Quiet s
  job : s.job = none
  script : s.script = .call c :: rest
  resetPlan : s.resetPlan = []

/-- The call has returned `r` and the host, at rest again, goes on with `rest`. -/
structure Returned (r : CallResult) (rest : List HostLine) (s t : State) : Prop where
  quiet : Quiet t
  job : t.job = none
  script : t.script = rest
  reads : t.reads = s.reads ++ [.callResult r]

/-- The state with the registers no rule reads in its phase cleared (R22, R28, R29: STATE and ROUND outside ENC and DEC,
WIDX outside KX). -/
def hideUnread (s : State) : State :=
  match s.phase with
  | .idle => { s with st := Block.zero, round := 0#4, widx := 0#6 }
  | .kx => { s with st := Block.zero, round := 0#4 }
  | .enc => { s with widx := 0#6 }
  | .dec => { s with widx := 0#6 }

/-- Sixteen values, each a byte (R240). -/
def isBlockList (xs : List Int) : Prop := xs.length = 16 ∧ ∀ x ∈ xs, 0 ≤ x ∧ x ≤ 255

end Sys2Proof.Machine
end

