-- ==== Sys2Proof/Certificates/Slice0/Obligations.lean ====
section
/-!
DEFINITION. The statements for the provers, from the numbered rules of spec/. Each docstring names the rules it rests on.
-/

open Sys2Proof Sys2Proof.Machine

/-! ### Encoding (30_encoding.md) -/

/-- R77, R80, R81: words written out from the spec's encodings decode to the commands they stand for, and the illegal words
of R78 are rejected by name. -/
def Obligations.SpecWordsDecodeToTheirCommands : Prop :=
  decode true 0x0101#16 = .ok (.keyexp 16#5) ∧ decode true 0x00f1#16 = .ok (.keyexp 15#5) ∧
  decode true 0x0102#16 = .ok (.enc 16#5) ∧ decode true 0x00f2#16 = .ok (.enc 15#5) ∧
  decode true 0x0103#16 = .ok (.dec 16#5) ∧ decode true 0x0113#16 = .ok (.dec 17#5) ∧
  decode true 0x0004#16 = .ok (.rkrd 0#5) ∧ decode true 0x00a4#16 = .ok (.rkrd 10#5) ∧
  decode false 0x0004#16 = .error .rkrdAbsent ∧ decode true 0x0000#16 = .error .illegalOp ∧
  decode true 0x0005#16 = .error .illegalOp ∧ decode true 0x0201#16 = .error .reservedBits

/-- R77, R80: every instruction an engine has, with every field value, is what its own word decodes to. -/
def Obligations.DecodeOfEncodeIsTheInstruction : Prop :=
  ∀ (hasRkrd : Bool) (i : Instr), i.wellFormed hasRkrd = true → decode hasRkrd (encode i) = .ok i

/-- R77, R79: a word that decodes is the encoding of what it decodes to; no bit of it is dropped. -/
def Obligations.EncodeOfDecodeIsTheWord : Prop :=
  ∀ (hasRkrd : Bool) (w : BitVec 16) (i : Instr), decode hasRkrd w = .ok i →
    encode i = w ∧ i.wellFormed hasRkrd = true

/-- R78, R79, R80: the decoder rejects a word exactly when RSVD is not zero, OP is 0x0 or 0x5 to 0xF, or OP is 0x4 without
RKRD. -/
def Obligations.IllegalWordsAreExactlyThoseListed : Prop :=
  ∀ (hasRkrd : Bool) (w : BitVec 16),
    (∃ e, decode hasRkrd w = .error e) ↔
      (w.extractLsb' 9 7 ≠ 0#7 ∨ w.extractLsb' 0 4 = 0#4 ∨ 5 ≤ (w.extractLsb' 0 4).toNat ∨
        (w.extractLsb' 0 4 = 4#4 ∧ hasRkrd = false))

/-! ### Acceptance and the step -/

/-- R71, R220, R229: with reset released, a command offered and BUSY = 0, the step is the acceptance of the word, after
the read of STATUS or DOUT that is the host's next line if it is the host's turn; where the word decodes, the acceptance
runs the decoded command. Around it the step takes the offer from the port (log 5) and uses up a turn (log 6); both are the
model's choices. -/
def Obligations.StepRunsTheDecodedCommand : Prop :=
  (∀ s : Machine.State, s.rstN = true → s.cmdValid = true → s.busy = false →
    step s = bindNext (hostLook s.schedule.head? (nextTurn s)) accept) ∧
  (∀ (s : Machine.State) (i : Instr), s.rstN = true → s.cmdValid = true → s.busy = false →
    decode s.hasRkrd s.cmd = .ok i →
    (¬ (s.schedule.head? = some .host ∧ readIsNext s = true) →
      step s = exec i { s with cmdValid := false, schedule := s.schedule.tail }) ∧
    (∀ rest turns, s.job = none → s.schedule = .host :: turns → s.script = .rdstat :: rest →
      step s = exec i { s with cmdValid := false, schedule := turns, script := rest,
                               reads := s.reads ++ [.status (status s)] }) ∧
    (∀ rest turns v, s.job = none → s.schedule = .host :: turns → s.script = .rdout :: rest → s.doutValid = true →
      s.dout = some v →
      step s = exec i { s with cmdValid := false, schedule := turns, script := rest, reads := s.reads ++ [.dout v] }))

/-- R227, R266: the acceptance of an illegal word changes nothing but ERR, which becomes 5; RKRD with RIDX above 10 does the
same. What becomes of cmd_valid is not spoken of. -/
def Obligations.IllegalCommandWritesOnlyErr : Prop :=
  (∀ s : Machine.State,
    (s.cmd.extractLsb' 9 7 ≠ 0#7 ∨ s.cmd.extractLsb' 0 4 = 0#4 ∨ 5 ≤ (s.cmd.extractLsb' 0 4).toNat ∨
      (s.cmd.extractLsb' 0 4 = 4#4 ∧ s.hasRkrd = false)) →
    ∃ v, accept s = .next { s with cmdValid := v, err := 5#4 }) ∧
  (∀ (s : Machine.State) (r : BitVec 5), 10 < r.toNat → exec (.rkrd r) s = .next { s with err := 5#4 })

/-- R262, R263: the acceptance of the 15-byte and 17-byte commands of the validation property, from their words, ends with
the length error and changes nothing else; what becomes of cmd_valid is not spoken of. -/
def Obligations.FifteenAndSeventeenByteInputsFail : Prop :=
  ∀ s : Machine.State,
    (s.cmd = 0x00f1#16 ∨ s.cmd = 0x0111#16 → ∃ v, accept s = .next { s with cmdValid := v, err := 1#4 }) ∧
    (s.cmd = 0x00f2#16 ∨ s.cmd = 0x0112#16 ∨ s.cmd = 0x00f3#16 ∨ s.cmd = 0x0113#16 →
      ∃ v, accept s = .next { s with cmdValid := v, err := 2#4 })

/-- R240, R260 to R267: one error is reported, the first of: ByteRangeError at the adapter before any command exists (the
state is as it was), IllegalCommand at decode, the field checks whatever KEY_VALID is, KeyNotLoaded. A command that none
applies to raises none. That the call with the range error can go on in every state, in reset too, and the fields `job` and
`reads` that show its return, are the model's choices (log 10, log 8). -/
def Obligations.ErrorsAreReportedInPriorityOrder : Prop :=
  (∀ (s : Machine.State) (c : AdapterCall), (∃ x ∈ callBytes c, x < 0 ∨ 255 < x) →
    jobEnabled ⟨c, .start⟩ s = true ∧
    jobStep ⟨c, .start⟩ s = .next { s with job := none, reads := s.reads ++ [.callResult (.error 3#4)] }) ∧
  (∀ (s : Machine.State) (e : Illegal), decode s.hasRkrd s.cmd = .error e →
    ∃ v, accept s = .next { s with cmdValid := v, err := 5#4 }) ∧
  (∀ (s : Machine.State) (len : BitVec 5), len ≠ 16#5 →
    exec (.keyexp len) s = .next { s with err := 1#4 } ∧ exec (.enc len) s = .next { s with err := 2#4 } ∧
    exec (.dec len) s = .next { s with err := 2#4 }) ∧
  (∀ (s : Machine.State) (r : BitVec 5), 10 < r.toNat → exec (.rkrd r) s = .next { s with err := 5#4 }) ∧
  (∀ s : Machine.State, s.keyValid = false →
    exec (.enc 16#5) s = .next { s with err := 4#4 } ∧ exec (.dec 16#5) s = .next { s with err := 4#4 } ∧
    (s.hasRkrd = true → ∀ r : BitVec 5, r.toNat ≤ 10 → exec (.rkrd r) s = .next { s with err := 4#4 })) ∧
  (∀ (i : Instr) (s t : Machine.State), i.legalField = true → i.wellFormed s.hasRkrd = true → s.keyValid = true →
    exec i s = .next t → t.err = s.err ∨ t.err = 0#4)

/-- R228: a command offered while a command runs is not accepted and not lost: every step leaves it at the port unless it
is the host taking it back; once BUSY is 0 the step accepts it, as any other offer, against the state then; a host that
takes it back has issued nothing. Whose turn a step is is the model's choice (log 6). -/
def Obligations.CommandOfferedWhileBusyIsHeld : Prop :=
  (∀ s t : Machine.State, s.rstN = true → s.cmdValid = true → s.busy = true → step s = .next t →
    (t.cmdValid = true ∧ t.cmd = s.cmd ∧ t.operand = s.operand) ∨
      (s.job = none ∧ ∃ rest, s.script = .withdraw :: rest)) ∧
  (∀ t : Machine.State, t.rstN = true → t.cmdValid = true → t.busy = false →
    step t = bindNext (hostLook t.schedule.head? (nextTurn t)) accept) ∧
  (∀ (s : Machine.State) (rest : List HostLine) (turns : List Agent), s.rstN = true → s.cmdValid = true →
    s.busy = true → s.job = none → s.script = .withdraw :: rest → s.schedule = .host :: turns →
    step s = .next { s with cmdValid := false, script := rest, schedule := turns })

/-- R299: the ports can change after acceptance without any effect on the running command. -/
def Obligations.PortsAfterAcceptanceHaveNoEffect : Prop :=
  ∀ (s : Machine.State) (valid : Bool) (w : BitVec 16) (v : Quad),
    microStep { s with cmdValid := valid, cmd := w, operand := v } =
      mapNext (fun t => { t with cmdValid := valid, cmd := w, operand := v }) (microStep s)

/-! ### The commands -/

/-- R222 (acceptance), R57: KEYEXP with LEN = 16 loads the key's four words, most significant first, and starts the
expansion; everything else is as it was. -/
def Obligations.KeyexpAcceptanceLoadsTheKey : Prop :=
  ∀ s : Machine.State, ∃ t, exec (.keyexp 16#5) s = .next t ∧
    (∀ i, i < 4 → rkWord t i = s.operand.extractLsb' (96 - 32 * i) 32) ∧
    (∀ i, 4 ≤ i → t.rk[i]? = s.rk[i]?) ∧
    t.keyValid = false ∧ t.widx = 4#6 ∧ t.phase = .kx ∧ t.busy = true ∧
    t.st = s.st ∧ t.dout = s.dout ∧ t.doutValid = s.doutValid ∧ t.err = s.err ∧ t.round = s.round ∧
    SameOutside s t

/-- R224, R225 (acceptance), R55: with a key loaded, ENC and DEC with LEN = 16 load STATE, byte k from bits 127-8k to
120-8k of the operand, and start at round 0 and round 10; everything else is as it was. -/
def Obligations.BlockCommandAcceptanceLoadsTheBlock : Prop :=
  ∀ s : Machine.State, s.keyValid = true →
    (∃ t, exec (.enc 16#5) s = .next t ∧
      (∀ k : Fin 16, byteOf t.st k = s.operand.extractLsb' (120 - 8 * k.val) 8) ∧
      t.round = 0#4 ∧ t.phase = .enc ∧ t.busy = true ∧
      t.rk = s.rk ∧ t.keyValid = s.keyValid ∧ t.dout = s.dout ∧ t.doutValid = s.doutValid ∧ t.err = s.err ∧
      t.widx = s.widx ∧ SameOutside s t) ∧
    (∃ t, exec (.dec 16#5) s = .next t ∧
      (∀ k : Fin 16, byteOf t.st k = s.operand.extractLsb' (120 - 8 * k.val) 8) ∧
      t.round = 10#4 ∧ t.phase = .dec ∧ t.busy = true ∧
      t.rk = s.rk ∧ t.keyValid = s.keyValid ∧ t.dout = s.dout ∧ t.doutValid = s.doutValid ∧ t.err = s.err ∧
      t.widx = s.widx ∧ SameOutside s t)

/-- R226: RIDX above 10 raises IllegalCommand and KEY_VALID = 0 raises KeyNotLoaded, in that order; else RKRD puts the four
words of round key RIDX into DOUT and completes at once. Everything else is as it was. -/
def Obligations.RkrdReadsOneRoundKey : Prop :=
  ∀ (s : Machine.State) (r : BitVec 5), s.hasRkrd = true →
    (10 < r.toNat → exec (.rkrd r) s = .next { s with err := 5#4 }) ∧
    (r.toNat ≤ 10 → s.keyValid = false → exec (.rkrd r) s = .next { s with err := 4#4 }) ∧
    (r.toNat ≤ 10 → s.keyValid = true → ∃ t v, exec (.rkrd r) s = .next t ∧ t.dout = some v ∧
      (∀ j, j < 4 → v.extractLsb' (96 - 32 * j) 32 = rkWord s (4 * r.toNat + j)) ∧
      t.doutValid = true ∧ t.busy = false ∧ t.phase = .idle ∧ t.err = 0#4 ∧
      t.st = s.st ∧ t.rk = s.rk ∧ t.keyValid = s.keyValid ∧ t.round = s.round ∧ t.widx = s.widx ∧ SameOutside s t)

/-- R221: what each command, from acceptance to its last micro-step, and each error leaves alone. -/
def Obligations.CommandsLeaveTheRestAlone : Prop :=
  (∀ (s t : Machine.State) (len : BitVec 5), exec (.keyexp len) s = .next t ∨ (s.phase = .kx ∧ microStep s = .next t) →
    t.st = s.st ∧ t.dout = s.dout ∧ t.doutValid = s.doutValid ∧ t.round = s.round ∧ SameOutside s t) ∧
  (∀ (s t : Machine.State) (len : BitVec 5),
    exec (.enc len) s = .next t ∨ exec (.dec len) s = .next t ∨
      ((s.phase = .enc ∨ s.phase = .dec) ∧ microStep s = .next t) →
    t.rk = s.rk ∧ t.keyValid = s.keyValid ∧ t.widx = s.widx ∧ SameOutside s t) ∧
  (∀ (s t : Machine.State) (r : BitVec 5), s.busy = false → s.phase = .idle → exec (.rkrd r) s = .next t →
    t = { s with dout := t.dout, doutValid := t.doutValid, err := t.err }) ∧
  (∀ (s : Machine.State) (i : Instr) (e : ErrKind), acceptError i s = some e →
    exec i s = .next { s with err := errCode e })

/-- R31: ERR is written at the completion of every command, 0 on success and the error's code on an error, and at no other
time outside reset; while a command runs it shows the previous outcome. -/
def Obligations.ErrIsTheLastOutcome : Prop :=
  (∀ (s : Machine.State) (e : Illegal), decode s.hasRkrd s.cmd = .error e →
    ∃ t, accept s = .next t ∧ t.err = errCode .illegalCommand) ∧
  (∀ (s : Machine.State) (i : Instr) (e : ErrKind), acceptError i s = some e →
    ∃ t, exec i s = .next t ∧ t.err = errCode e) ∧
  (∀ (s t : Machine.State) (i : Instr), acceptError i s = none → exec i s = .next t →
    (t.busy = true ∧ t.err = s.err) ∨ (t.busy = false ∧ t.err = 0#4 ∧ ∃ r, i = .rkrd r)) ∧
  (∀ s t : Machine.State, s.phase ≠ .idle → microStep s = .next t →
    (t.phase = s.phase ∧ t.busy = s.busy ∧ t.err = s.err) ∨ (t.phase = .idle ∧ t.busy = false ∧ t.err = 0#4)) ∧
  (∀ s t : Machine.State, Inv s → s.rstN = true → step s = .next t →
    t.err = s.err ∨ (s.busy = true ∧ t.busy = false ∧ t.err = 0#4) ∨
      (s.busy = false ∧ s.cmdValid = true ∧ t.busy = false))

/-! ### Micro-steps -/

/-- R147, R148: one KX_STEP derives word WIDX from words WIDX - 1 and WIDX - 4, with RotWord, SubWord and RCON in the most
significant byte at multiples of four, and leaves every other word; the step that writes RK[43] sets KEY_VALID and
completes. -/
def Obligations.KxStepDerivesOneWord : Prop :=
  ∀ s : Machine.State, s.phase = .kx → 4 ≤ s.widx.toNat → s.widx.toNat ≤ 43 →
    ∃ t, microStep s = .next t ∧
      rkWord t s.widx.toNat = rkWord s (s.widx.toNat - 4) ^^^
        (if s.widx.toNat % 4 = 0 then
          subWord (rotWord (rkWord s (s.widx.toNat - 1))) ^^^
            ((rcon (s.widx.toNat / 4 - 1)).setWidth 32 <<< 24)
        else rkWord s (s.widx.toNat - 1)) ∧
      (∀ i, i ≠ s.widx.toNat → t.rk[i]? = s.rk[i]?) ∧
      t.widx.toNat = s.widx.toNat + 1 ∧
      (s.widx.toNat < 43 →
        t.phase = .kx ∧ t.busy = s.busy ∧ t.keyValid = s.keyValid ∧ t.err = s.err) ∧
      (s.widx.toNat = 43 → t.phase = .idle ∧ t.busy = false ∧ t.keyValid = true ∧ t.err = 0#4) ∧
      t.st = s.st ∧ t.dout = s.dout ∧ t.doutValid = s.doutValid ∧ t.round = s.round ∧ SameOutside s t

/-- R193, R194, R195: one ENC_STEP at each round index, with its completion at round 10, which leaves ROUND. -/
def Obligations.EncStepAppliesOneRound : Prop :=
  ∀ s : Machine.State, s.phase = .enc →
    (s.round.toNat = 0 → ∃ t, microStep s = .next t ∧ t.st = addRoundKey (rkWord s) 0 s.st ∧ t.round = 1#4 ∧
      t.phase = .enc ∧ t.busy = s.busy ∧ t.dout = s.dout ∧ t.doutValid = s.doutValid ∧ t.err = s.err) ∧
    (∀ r, 1 ≤ r → r ≤ 9 → s.round.toNat = r → ∃ t, microStep s = .next t ∧
      t.st = addRoundKey (rkWord s) r (mixColumns (shiftRows (subBytes s.st))) ∧ t.round.toNat = r + 1 ∧
      t.phase = .enc ∧ t.busy = s.busy ∧ t.dout = s.dout ∧ t.doutValid = s.doutValid ∧ t.err = s.err) ∧
    (s.round.toNat = 10 → ∃ t, microStep s = .next t ∧
      t.st = addRoundKey (rkWord s) 10 (shiftRows (subBytes s.st)) ∧ t.dout = some (vec128 t.st) ∧
      t.doutValid = true ∧ t.round = s.round ∧ t.phase = .idle ∧ t.busy = false ∧ t.err = 0#4)

/-- R196, R197, R198: one DEC_STEP at each round index, with its completion at round 0, which leaves ROUND. -/
def Obligations.DecStepAppliesOneInverseRound : Prop :=
  ∀ s : Machine.State, s.phase = .dec →
    (s.round.toNat = 10 → ∃ t, microStep s = .next t ∧ t.st = addRoundKey (rkWord s) 10 s.st ∧ t.round = 9#4 ∧
      t.phase = .dec ∧ t.busy = s.busy ∧ t.dout = s.dout ∧ t.doutValid = s.doutValid ∧ t.err = s.err) ∧
    (∀ r, 1 ≤ r → r ≤ 9 → s.round.toNat = r → ∃ t, microStep s = .next t ∧
      t.st = invMixColumns (addRoundKey (rkWord s) r (invSubBytes (invShiftRows s.st))) ∧ t.round.toNat = r - 1 ∧
      t.phase = .dec ∧ t.busy = s.busy ∧ t.dout = s.dout ∧ t.doutValid = s.doutValid ∧ t.err = s.err) ∧
    (s.round.toNat = 0 → ∃ t, microStep s = .next t ∧
      t.st = addRoundKey (rkWord s) 0 (invSubBytes (invShiftRows s.st)) ∧ t.dout = some (vec128 t.st) ∧
      t.doutValid = true ∧ t.round = s.round ∧ t.phase = .idle ∧ t.busy = false ∧ t.err = 0#4)

/-! ### Whole commands -/

/-- R140 to R148, R200, R222: forty micro-steps after its acceptance KEYEXP has filled all 44 words with the key's
expansion, set KEY_VALID and completed, with DOUT and STATE as they were. -/
def Obligations.KeyExpansionFillsTheStore : Prop :=
  ∀ s : Machine.State, ∃ t, bindNext (exec (.keyexp 16#5) s) (microSteps 40) = .next t ∧
    (∀ i, i < 44 → rkWritten t i ∧ rkWord t i = keyWord s.operand i) ∧
    t.keyValid = true ∧ t.busy = false ∧ t.phase = .idle ∧ t.err = 0#4 ∧
    t.st = s.st ∧ t.dout = s.dout ∧ t.doutValid = s.doutValid ∧ t.round = s.round ∧ SameOutside s t

/-- R223, R297: from KEYEXP's acceptance to its completion the host reads BUSY 1, KEY_VALID 0, DOUT_VALID and ERR as they
were, and the port is not ready. -/
def Obligations.StatusDuringKeyExpansion : Prop :=
  ∀ (s : Machine.State) (n : Nat), n < 40 →
    ∃ t, bindNext (exec (.keyexp 16#5) s) (microSteps n) = .next t ∧
      (status t).getLsbD 0 = true ∧ (status t).getLsbD 1 = false ∧ (status t).getLsbD 2 = s.doutValid ∧
      (status t).extractLsb' 4 4 = s.err ∧ cmdReady t = false

/-- R201: eleven micro-steps after acceptance DOUT is Encrypt (ENC) or Decrypt (DEC) of the block captured at acceptance,
under the RK present at acceptance, which no micro-step changes. -/
def Obligations.MicroStepsComputeEncryptAndDecrypt : Prop :=
  ∀ s : Machine.State, s.keyValid = true →
    (∃ t, bindNext (exec (.enc 16#5) s) (microSteps 11) = .next t ∧
      t.dout = some (vec128 (encrypt (rkWord s) (bytes16 s.operand))) ∧ t.doutValid = true ∧
      t.busy = false ∧ t.phase = .idle ∧ t.err = 0#4 ∧ t.rk = s.rk ∧ t.keyValid = true ∧ SameOutside s t) ∧
    (∃ t, bindNext (exec (.dec 16#5) s) (microSteps 11) = .next t ∧
      t.dout = some (vec128 (decrypt (rkWord s) (bytes16 s.operand))) ∧ t.doutValid = true ∧
      t.busy = false ∧ t.phase = .idle ∧ t.err = 0#4 ∧ t.rk = s.rk ∧ t.keyValid = true ∧ SameOutside s t)

/-- R201, R222, R224, R225: a key loaded by KEYEXP and then a block: DOUT is the cipher of the block under the expansion
of that key, whatever the machine held before. -/
def Obligations.KeyThenBlockGivesTheCipherOfTheBlock : Prop :=
  ∀ (s : Machine.State) (key block : Quad),
    (∃ t, bindNext (exec (.keyexp 16#5) { s with operand := key }) (fun a =>
        bindNext (microSteps 40 a) fun b =>
          bindNext (exec (.enc 16#5) { b with operand := block }) (microSteps 11)) = .next t ∧
      t.dout = some (vec128 (encrypt (keyWord key) (bytes16 block)))) ∧
    (∃ t, bindNext (exec (.keyexp 16#5) { s with operand := key }) (fun a =>
        bindNext (microSteps 40 a) fun b =>
          bindNext (exec (.dec 16#5) { b with operand := block }) (microSteps 11)) = .next t ∧
      t.dout = some (vec128 (decrypt (keyWord key) (bytes16 block))))

/-- R200, R269: an accepted command is busy for exactly its number of micro-steps, the same for every key and block. -/
def Obligations.StepCountsAreFixed : Prop :=
  ∀ (s t : Machine.State) (i : Instr), s.busy = false → s.phase = .idle → exec i s = .next t →
    (∀ n, n < commandMicroSteps i s → ∃ u, microSteps n t = .next u ∧ u.busy = true) ∧
    ∃ u, microSteps (commandMicroSteps i s) t = .next u ∧ u.busy = false ∧ u.phase = .idle

/-- R202: Encrypt and Decrypt under the same round keys are exact inverses. -/
def Obligations.EncryptAndDecryptAreInverses : Prop :=
  ∀ (w : Nat → Word) (b : Block), decrypt w (encrypt w b) = b ∧ encrypt w (decrypt w b) = b

/-! ### Layers, arithmetic, tables, byte order -/

/-- R167: every layer has its inverse, in both orders, and AddRoundKey is its own. -/
def Obligations.LayersHaveTheirInverses : Prop :=
  ∀ s : Block,
    invSubBytes (subBytes s) = s ∧ subBytes (invSubBytes s) = s ∧
    invShiftRows (shiftRows s) = s ∧ shiftRows (invShiftRows s) = s ∧
    invMixColumns (mixColumns s) = s ∧ mixColumns (invMixColumns s) = s ∧
    ∀ (w : Nat → Word) (r : Nat), addRoundKey w r (addRoundKey w r s) = s

/-- R168: substitution commutes with permutation, forward and inverse; MixColumns and AddRoundKey do not in general. -/
def Obligations.SubstitutionCommutesWithPermutation : Prop :=
  (∀ s : Block, subBytes (shiftRows s) = shiftRows (subBytes s) ∧
    invSubBytes (invShiftRows s) = invShiftRows (invSubBytes s)) ∧
  ∃ (w : Nat → Word) (r : Nat) (s : Block), mixColumns (addRoundKey w r s) ≠ addRoundKey w r (mixColumns s)

/-- R160 to R166: each layer byte by byte, in the spec's own formulas. -/
def Obligations.LayersFollowTheirByteFormulas : Prop :=
  (∀ (s : Block) (k : Fin 16), byteOf (subBytes s) k = sbox (byteOf s k) ∧
    byteOf (invSubBytes s) k = invSbox (byteOf s k)) ∧
  (∀ (s : Block) (k m : Fin 16),
    (m.val = k.val % 4 + 4 * ((k.val / 4 + k.val % 4) % 4) → byteOf (shiftRows s) k = byteOf s m) ∧
    (m.val = k.val % 4 + 4 * ((k.val / 4 + 4 - k.val % 4) % 4) → byteOf (invShiftRows s) k = byteOf s m)) ∧
  (∀ (s : Block) (c : Fin 4),
    let a0 := cell s 0 c
    let a1 := cell s 1 c
    let a2 := cell s 2 c
    let a3 := cell s 3 c
    cell (mixColumns s) 0 c = gfmul 0x02 a0 ^^^ gfmul 0x03 a1 ^^^ a2 ^^^ a3 ∧
    cell (mixColumns s) 1 c = a0 ^^^ gfmul 0x02 a1 ^^^ gfmul 0x03 a2 ^^^ a3 ∧
    cell (mixColumns s) 2 c = a0 ^^^ a1 ^^^ gfmul 0x02 a2 ^^^ gfmul 0x03 a3 ∧
    cell (mixColumns s) 3 c = gfmul 0x03 a0 ^^^ a1 ^^^ a2 ^^^ gfmul 0x02 a3 ∧
    cell (invMixColumns s) 0 c = gfmul 0x0e a0 ^^^ gfmul 0x0b a1 ^^^ gfmul 0x0d a2 ^^^ gfmul 0x09 a3 ∧
    cell (invMixColumns s) 1 c = gfmul 0x09 a0 ^^^ gfmul 0x0e a1 ^^^ gfmul 0x0b a2 ^^^ gfmul 0x0d a3 ∧
    cell (invMixColumns s) 2 c = gfmul 0x0d a0 ^^^ gfmul 0x09 a1 ^^^ gfmul 0x0e a2 ^^^ gfmul 0x0b a3 ∧
    cell (invMixColumns s) 3 c = gfmul 0x0b a0 ^^^ gfmul 0x0d a1 ^^^ gfmul 0x09 a2 ^^^ gfmul 0x0e a3) ∧
  (∀ (w : Nat → Word) (r : Nat) (s : Block) (j k : Fin 4),
    cell (addRoundKey w r s) k j = cell s k j ^^^ (w (4 * r + j.val)).extractLsb' (24 - 8 * k.val) 8)

/-- R103: gfmul is the multiplication of a field: commutative, associative, distributive over exclusive or, with the two
named multiples, and every non-zero byte has exactly one inverse. -/
def Obligations.GfmulIsFieldMultiplication : Prop :=
  (∀ a b : Byte, gfmul a b = gfmul b a) ∧
  (∀ a b c : Byte, gfmul a (gfmul b c) = gfmul (gfmul a b) c) ∧
  (∀ a b c : Byte, gfmul a (b ^^^ c) = gfmul a b ^^^ gfmul a c) ∧
  (∀ a : Byte, gfmul a 0x02#8 = xtime a ∧ gfmul a 0x03#8 = xtime a ^^^ a) ∧
  (∀ a : Byte, a ≠ 0#8 → ∃ b, gfmul a b = 0x01#8 ∧ ∀ b', gfmul a b' = 0x01#8 → b' = b)

/-- R104: the constant multiples of the diffusion layers from doublings. -/
def Obligations.ConstantMultiplesFromDoublings : Prop :=
  ∀ a : Byte,
    gfmul a 0x01#8 = a ∧ gfmul a 0x02#8 = xtime a ∧ gfmul a 0x03#8 = xtime a ^^^ a ∧
    gfmul a 0x09#8 = xtime (xtime (xtime a)) ^^^ a ∧
    gfmul a 0x0b#8 = xtime (xtime (xtime a)) ^^^ xtime a ^^^ a ∧
    gfmul a 0x0d#8 = xtime (xtime (xtime a)) ^^^ xtime (xtime a) ^^^ a ∧
    gfmul a 0x0e#8 = xtime (xtime (xtime a)) ^^^ xtime (xtime a) ^^^ xtime a

/-- R121: every SBOX entry is the affine map of the field inverse (0 for 0). The spec marks this definition as general
knowledge (93 G3). -/
def Obligations.SboxIsAffineOfFieldInverse : Prop :=
  ∀ a b : Byte, ((a = 0#8 ∧ b = 0#8) ∨ gfmul a b = 0x01#8) → sbox a = sboxAffine b

/-- R122, R123: the two tables are mutual inverses without a fixed point. -/
def Obligations.SubstitutionTablesAreMutualInverses : Prop :=
  ∀ x : Byte, invSbox (sbox x) = x ∧ sbox (invSbox x) = x ∧ sbox x ≠ x ∧ invSbox x ≠ x

/-- R124, R125: RCON starts at 1 and doubles in the field. The spec marks the recurrence as general knowledge (93 G5). -/
def Obligations.RconDoublesInTheField : Prop :=
  rcon 0 = 0x01#8 ∧ (∀ j, j < 9 → rcon (j + 1) = xtime (rcon j)) ∧ rcon 8 = 0x1b#8 ∧ rcon 9 = 0x36#8

/-- R54, R142, R143: RotWord moves (b0, b1, b2, b3) to (b1, b2, b3, b0) and SubWord substitutes each byte. -/
def Obligations.RotWordAndSubWordActOnBytes : Prop :=
  ∀ b : Column, bytes (rotWord (word b)) = ⟨b.r1, b.r2, b.r3, b.r0⟩ ∧
    bytes (subWord (word b)) = ⟨sbox b.r0, sbox b.r1, sbox b.r2, sbox b.r3⟩

/-- R14, R54, R55, R58: the views of a 16-byte value agree: byte k is bits 127-8k to 120-8k, column k div 4 row k mod 4,
and the four words side by side are the 128-bit value. -/
def Obligations.ByteOrderViewsAgree : Prop :=
  (∀ b : Column, bytes (word b) = b ∧
    word b = ((b.r0.setWidth 32 <<< 24) ||| (b.r1.setWidth 32 <<< 16) ||| (b.r2.setWidth 32 <<< 8) ||| b.r3.setWidth 32)) ∧
  (∀ w : Word, word (bytes w) = w) ∧
  (∀ v : Quad, vec128 (bytes16 v) = v ∧ ∀ k : Fin 16, byteOf (bytes16 v) k = v.extractLsb' (120 - 8 * k.val) 8) ∧
  (∀ b : Block, bytes16 (vec128 b) = b) ∧
  (∀ (xs : List Int), isBlockList xs → ∀ k : Fin 16, byteOf (bytes16 (vec128List xs)) k = BitVec.ofInt 8 (xs.getD k.val 0))

/-! ### The whole machine -/

/-- R39: the state after reset (STATE, ROUND and WIDX, which R39 leaves unspecified, are not spoken of). -/
def Obligations.ResetLeavesTheSpecsValues : Prop :=
  State.reset.busy = false ∧ State.reset.phase = .idle ∧ State.reset.keyValid = false ∧
  State.reset.doutValid = false ∧ State.reset.err = 0#4 ∧ status State.reset = 0x00#8 ∧
  (∀ i, ¬ rkWritten State.reset i) ∧ State.reset.dout = none ∧ cmdReady State.reset = true ∧
  State.reset.loaded = none

/-- The invariant (R24, R26 to R30, R38) holds after reset. -/
def Obligations.ResetMeetsTheInvariant : Prop := Inv State.reset

/-- R24, R26, R27, R28, R29, R30, R38: every step keeps the invariant, from every state that meets it. -/
def Obligations.EveryStepKeepsTheInvariant : Prop :=
  ∀ s t : Machine.State, Inv s → step s = .next t → Inv t

/-- R269, R280: the engine itself never faults and is never stuck: from every state of the invariant its step answers a
next state of the invariant. -/
def Obligations.EngineNeverFaults : Prop :=
  ∀ s : Machine.State, Inv s → ∃ t, engineStep s = .next t ∧ Inv t

/-- R280: from a state of the invariant the only fault is ReadUnwrittenDOUT, at a read of DOUT by a host line or an adapter
call with BUSY = 0 and DOUT_VALID = 0 (or in reset, where both are 0), and such a host line does fault; the sequencer is
never stuck, whatever the host does. -/
def Obligations.OnlyReadUnwrittenDoutFaults : Prop :=
  (∀ (s : Machine.State) (f : Fault), Inv s → step s = .fault f →
    f = .readUnwrittenDOUT ∧ (s.job ≠ none ∨ ∃ rest, s.script = .rdout :: rest) ∧
      (s.rstN = true → s.busy = false ∧ s.doutValid = false)) ∧
  (∀ (s : Machine.State) (rest : List HostLine), Quiet s → s.job = none → s.script = .rdout :: rest →
    s.schedule.head? ≠ some .outside → s.doutValid = false → step s = .fault .readUnwrittenDOUT) ∧
  (∀ s : Machine.State, Inv s → step s ≠ .fault .sequencerStuck)

/-- R204, R269, R303: a running command ends after at most 40 micro-steps, with ERR = 0. -/
def Obligations.EveryAcceptedCommandCompletes : Prop :=
  ∀ s : Machine.State, Inv s → s.busy = true →
    ∃ n t, 1 ≤ n ∧ n ≤ 40 ∧ microSteps n s = .next t ∧ t.busy = false ∧ t.phase = .idle ∧ t.err = 0#4

/-- R22, R28, R29, R37: registers no rule reads have no effect: two states that differ only in them step to states that
differ only in them, and give the host the same. The values a host reads from DOUT while BUSY are taken as independent of
them, which is the model's choice (log 7). -/
def Obligations.UnreadRegistersAreUnobservable : Prop :=
  ∀ s t : Machine.State, hideUnread s = hideUnread t →
    mapNext hideUnread (step s) = mapNext hideUnread (step t)

/-- R66, R69: outside a running KEYEXP, the acceptance of one, and reset, no step changes RK or KEY_VALID, whatever the host
does. -/
def Obligations.RoundKeysAreStableBetweenKeyexps : Prop :=
  ∀ s t : Machine.State, s.rstN = true → s.phase ≠ .kx →
    ¬ (s.cmdValid = true ∧ s.busy = false ∧ ∃ len, decode s.hasRkrd s.cmd = .ok (.keyexp len)) →
    step s = .next t → t.rk = s.rk ∧ t.keyValid = s.keyValid

/-- R27: outside reset DOUT and DOUT_VALID change only at the last micro-step of ENC or DEC and when RKRD is accepted, and
then DOUT_VALID is 1. -/
def Obligations.DoutIsWrittenOnlyByResults : Prop :=
  ∀ s t : Machine.State, s.rstN = true → step s = .next t →
    (t.dout = s.dout ∧ t.doutValid = s.doutValid) ∨
    (t.doutValid = true ∧
      ((s.phase = .enc ∧ s.round = 10#4) ∨ (s.phase = .dec ∧ s.round = 0#4) ∨
        (s.cmdValid = true ∧ s.busy = false ∧ ∃ r, decode s.hasRkrd s.cmd = .ok (.rkrd r))))

/-- R290, R291, R292, R293: while rst_n = 0 every step leaves the engine in its reset values, whatever was running, and
accepts nothing; the command in flight is abandoned, inside an adapter call too. An offer that no call has made stays on the
port unless the host takes it back. Only an RDOUT then ends the run. That an abandoned call returns nothing, and what the
host may do while reset is asserted, are the model's choices (log 8, log 9, log 10). -/
def Obligations.ResetAbandonsEverything : Prop :=
  ∀ s : Machine.State, s.rstN = false →
    (∀ t, step s = .next t →
      t.busy = false ∧ t.phase = .idle ∧ t.keyValid = false ∧ t.doutValid = false ∧ t.err = 0#4 ∧
      (∀ i, ¬ rkWritten t i) ∧ t.dout = none ∧ t.loaded = none ∧ callIssued t = false ∧
      (s.cmdValid = true → callIssued s = false → (∀ rest, s.script ≠ .withdraw :: rest) → t.cmdValid = true)) ∧
    ((∀ rest, s.script ≠ .rdout :: rest) → ∃ t, step s = .next t)

/-! ### What the host sees -/

/-- R30: the bits of STATUS; STATUS[3] reads 0; in every state of the invariant ERR is one of the codes the engine
produces. -/
def Obligations.StatusBitsAreTheFlags : Prop :=
  ∀ s : Machine.State,
    (status s).getLsbD 0 = s.busy ∧ (status s).getLsbD 1 = s.keyValid ∧ (status s).getLsbD 2 = s.doutValid ∧
    (status s).getLsbD 3 = false ∧ (status s).extractLsb' 4 4 = s.err ∧
    (Inv s → (status s).toNat / 16 ∈ [0, 1, 2, 4, 5])

/-- R229: RDSTAT gives the host the current STATUS and changes nothing else, at any time: while idle or BUSY, with an offer
held at the port, in the step that accepts one (the STATUS before it), and in reset. The host's script, what it has read and
whose turn it is are the model's fields (log 6, log 8). -/
def Obligations.RdstatReadsStatus : Prop :=
  ∀ (s : Machine.State) (rest : List HostLine) (turns : List Agent), s.job = none → s.script = .rdstat :: rest →
    s.schedule = .host :: turns →
    (s.rstN = true → s.cmdValid = false ∨ s.busy = true →
      step s = .next { s with script := rest, schedule := turns, reads := s.reads ++ [.status (status s)] }) ∧
    (s.rstN = true → s.cmdValid = true → s.busy = false →
      step s = accept { s with script := rest, schedule := turns, reads := s.reads ++ [.status (status s)] }) ∧
    (s.rstN = false → ∃ t, step s = .next t ∧ t.script = rest ∧ t.reads = s.reads ++ [.status 0x00#8])

/-- R230: RDOUT while BUSY gives some 128-bit value, with DOUT_VALID = 0 the model fault, else DOUT, with an offer at the
port or without; it changes nothing of the engine. The value while BUSY is free (log 7); script, reads and schedule are the
model's fields (log 6, log 8). -/
def Obligations.RdoutReadsDout : Prop :=
  ∀ (s : Machine.State) (rest : List HostLine) (turns : List Agent), s.rstN = true → s.job = none →
    s.script = .rdout :: rest → s.schedule = .host :: turns →
    (s.busy = true → ∃ v,
      step s = .next { s with script := rest, schedule := turns, draws := s.draws + 1, reads := s.reads ++ [.dout v] }) ∧
    (s.busy = false → s.doutValid = false → step s = .fault .readUnwrittenDOUT) ∧
    (∀ v, s.busy = false → s.doutValid = true → s.dout = some v →
      (s.cmdValid = false →
        step s = .next { s with script := rest, schedule := turns, reads := s.reads ++ [.dout v] }) ∧
      (s.cmdValid = true →
        step s = accept { s with script := rest, schedule := turns, reads := s.reads ++ [.dout v] }))

/-! ### Adapter, instances, timing parameters -/

/-- R240, R241: expandKey of sixteen bytes loads the key and returns its eleven round keys, or a handle of the key without
RKRD, within 66 steps, whosever turn they are; the value it returns names the key. How a call is cut into host actions is
the model's choice (log 10). -/
def Obligations.ExpandKeyReturnsTheRoundKeys : Prop :=
  ∀ (s : Machine.State) (xs : List Int) (rest : List HostLine), Calling (.expandKey xs) rest s → isBlockList xs →
    ∃ n t rks, n ≤ 66 ∧ steps n s = .next t ∧ Returned (.roundKeys rks) rest s t ∧
      rks = (if s.hasRkrd then .keys ((List.range 11).map (roundKey (keyWord (vec128List xs))))
        else .handle (vec128List xs)) ∧
      keyOfRoundKeys rks = some (vec128List xs) ∧
      t.loaded = some (vec128List xs) ∧ t.keyValid = true ∧
      (∀ i, i < 44 → rkWord t i = keyWord (vec128List xs) i)

/-- R240, R242, R243: encryptBlock and decryptBlock of sixteen bytes return the cipher of the block under the round keys'
key, loading the key first unless the adapter's tag names it, within 57 steps, whosever turn they are. How a call is cut
into host actions is the model's choice (log 10). -/
def Obligations.BlockCallsReturnTheCipher : Prop :=
  ∀ (s : Machine.State) (xs : List Int) (rks : RoundKeys) (key : Quad) (rest : List HostLine), isBlockList xs →
    keyOfRoundKeys rks = some key →
    (s.loaded = some key → s.keyValid = true ∧ ∀ i, i < 44 → rkWord s i = keyWord key i) →
    (Calling (.encryptBlock xs rks) rest s → ∃ n t, n ≤ 57 ∧ steps n s = .next t ∧
      Returned (.block (byteList (encrypt (keyWord key) (bytes16 (vec128List xs))))) rest s t ∧
      t.loaded = some key ∧ t.keyValid = true ∧ (∀ i, i < 44 → rkWord t i = keyWord key i)) ∧
    (Calling (.decryptBlock xs rks) rest s → ∃ n t, n ≤ 57 ∧ steps n s = .next t ∧
      Returned (.block (byteList (decrypt (keyWord key) (bytes16 (vec128List xs))))) rest s t ∧
      t.loaded = some key ∧ t.keyValid = true ∧ (∀ i, i < 44 → rkWord t i = keyWord key i))

/-- R240 to R244: a call with an input that is not sixteen bytes long returns the length error after four steps, whatever
its length, and leaves every register of the engine but ERR, and the adapter's tag, as it was (the ports are driven). How a
call is cut into host actions is the model's choice (log 10). -/
def Obligations.WrongLengthCallsReturnTheLengthError : Prop :=
  ∀ (s : Machine.State) (c : AdapterCall) (rest : List HostLine), Calling c rest s →
    (∀ x ∈ callBytes c, 0 ≤ x ∧ x ≤ 255) → (callBytes c).length ≠ 16 →
    ∃ t code, steps 4 s = .next t ∧ Returned (.error code) rest s t ∧
      code = (match c with | .expandKey _ => 1#4 | .encryptBlock _ _ => 2#4 | .decryptBlock _ _ => 2#4) ∧
      t.err = code ∧ t.st = s.st ∧ t.rk = s.rk ∧ t.keyValid = s.keyValid ∧ t.dout = s.dout ∧
      t.doutValid = s.doutValid ∧ t.round = s.round ∧ t.widx = s.widx ∧ t.loaded = s.loaded

/-- R21, R277: a step of one instance is that instance's own step and leaves every other instance as it was (log 13). -/
def Obligations.InstancesShareNothing : Prop :=
  ∀ (es es' : Instances) (k : Nat), stepInstance k es = .next es' →
    es'.length = es.length ∧ (∀ j, j ≠ k → es'[j]? = es[j]?) ∧
    (∀ e, es[k]? = some e → ∃ e', step e = .next e' ∧ es'[k]? = some e')

/-- R302: KEYEXP, ENC and DEC have a latency of at least 1 that depends on no key or data; RKRD and errors have 0. -/
def Obligations.LatencyDependsOnTheCommandAlone : Prop :=
  ∀ (s t : Machine.State) (i : Instr),
    ((acceptError i s ≠ none ∨ ∃ r, i = .rkrd r) → commandLatency i s = 0) ∧
    (acceptError i s = none → acceptError i t = none → commandLatency i s = commandLatency i t ∧
      ((∀ r, i ≠ .rkrd r) → 1 ≤ commandLatency i s))
end

