-- ==== Sys2Proof/Laws/State.lean ====
section
/-!
SUPPORT. One small law per field and named update of State, each true by unfolding, so that no later proof unfolds a
record update.
-/

namespace Sys2Proof.Machine

@[simp] theorem takeOffer_rstN (s : State) : (takeOffer s).rstN = s.rstN := rfl
@[simp] theorem takeOffer_cmdValid (s : State) : (takeOffer s).cmdValid = false := rfl
@[simp] theorem takeOffer_cmd (s : State) : (takeOffer s).cmd = s.cmd := rfl
@[simp] theorem takeOffer_operand (s : State) : (takeOffer s).operand = s.operand := rfl
@[simp] theorem takeOffer_st (s : State) : (takeOffer s).st = s.st := rfl
@[simp] theorem takeOffer_rk (s : State) : (takeOffer s).rk = s.rk := rfl
@[simp] theorem takeOffer_keyValid (s : State) : (takeOffer s).keyValid = s.keyValid := rfl
@[simp] theorem takeOffer_busy (s : State) : (takeOffer s).busy = s.busy := rfl
@[simp] theorem takeOffer_phase (s : State) : (takeOffer s).phase = s.phase := rfl
@[simp] theorem takeOffer_dout (s : State) : (takeOffer s).dout = s.dout := rfl
@[simp] theorem takeOffer_doutValid (s : State) : (takeOffer s).doutValid = s.doutValid := rfl
@[simp] theorem takeOffer_err (s : State) : (takeOffer s).err = s.err := rfl
@[simp] theorem takeOffer_round (s : State) : (takeOffer s).round = s.round := rfl
@[simp] theorem takeOffer_widx (s : State) : (takeOffer s).widx = s.widx := rfl
@[simp] theorem takeOffer_hasRkrd (s : State) : (takeOffer s).hasRkrd = s.hasRkrd := rfl
@[simp] theorem takeOffer_loaded (s : State) : (takeOffer s).loaded = s.loaded := rfl
@[simp] theorem takeOffer_script (s : State) : (takeOffer s).script = s.script := rfl
@[simp] theorem takeOffer_job (s : State) : (takeOffer s).job = s.job := rfl
@[simp] theorem takeOffer_resetPlan (s : State) : (takeOffer s).resetPlan = s.resetPlan := rfl
@[simp] theorem takeOffer_schedule (s : State) : (takeOffer s).schedule = s.schedule := rfl
@[simp] theorem takeOffer_reads (s : State) : (takeOffer s).reads = s.reads := rfl
@[simp] theorem takeOffer_draws (s : State) : (takeOffer s).draws = s.draws := rfl

@[simp] theorem driveCommand_rstN (w : BitVec 16) (v : Quad) (s : State) : (driveCommand w v s).rstN = s.rstN := rfl
@[simp] theorem driveCommand_cmdValid (w : BitVec 16) (v : Quad) (s : State) : (driveCommand w v s).cmdValid = true := rfl
@[simp] theorem driveCommand_cmd (w : BitVec 16) (v : Quad) (s : State) : (driveCommand w v s).cmd = w := rfl
@[simp] theorem driveCommand_operand (w : BitVec 16) (v : Quad) (s : State) : (driveCommand w v s).operand = v := rfl
@[simp] theorem driveCommand_st (w : BitVec 16) (v : Quad) (s : State) : (driveCommand w v s).st = s.st := rfl
@[simp] theorem driveCommand_rk (w : BitVec 16) (v : Quad) (s : State) : (driveCommand w v s).rk = s.rk := rfl
@[simp] theorem driveCommand_keyValid (w : BitVec 16) (v : Quad) (s : State) : (driveCommand w v s).keyValid = s.keyValid := rfl
@[simp] theorem driveCommand_busy (w : BitVec 16) (v : Quad) (s : State) : (driveCommand w v s).busy = s.busy := rfl
@[simp] theorem driveCommand_phase (w : BitVec 16) (v : Quad) (s : State) : (driveCommand w v s).phase = s.phase := rfl
@[simp] theorem driveCommand_dout (w : BitVec 16) (v : Quad) (s : State) : (driveCommand w v s).dout = s.dout := rfl
@[simp] theorem driveCommand_doutValid (w : BitVec 16) (v : Quad) (s : State) : (driveCommand w v s).doutValid = s.doutValid := rfl
@[simp] theorem driveCommand_err (w : BitVec 16) (v : Quad) (s : State) : (driveCommand w v s).err = s.err := rfl
@[simp] theorem driveCommand_round (w : BitVec 16) (v : Quad) (s : State) : (driveCommand w v s).round = s.round := rfl
@[simp] theorem driveCommand_widx (w : BitVec 16) (v : Quad) (s : State) : (driveCommand w v s).widx = s.widx := rfl
@[simp] theorem driveCommand_hasRkrd (w : BitVec 16) (v : Quad) (s : State) : (driveCommand w v s).hasRkrd = s.hasRkrd := rfl
@[simp] theorem driveCommand_loaded (w : BitVec 16) (v : Quad) (s : State) : (driveCommand w v s).loaded = s.loaded := rfl
@[simp] theorem driveCommand_script (w : BitVec 16) (v : Quad) (s : State) : (driveCommand w v s).script = s.script := rfl
@[simp] theorem driveCommand_job (w : BitVec 16) (v : Quad) (s : State) : (driveCommand w v s).job = s.job := rfl
@[simp] theorem driveCommand_resetPlan (w : BitVec 16) (v : Quad) (s : State) : (driveCommand w v s).resetPlan = s.resetPlan := rfl
@[simp] theorem driveCommand_schedule (w : BitVec 16) (v : Quad) (s : State) : (driveCommand w v s).schedule = s.schedule := rfl
@[simp] theorem driveCommand_reads (w : BitVec 16) (v : Quad) (s : State) : (driveCommand w v s).reads = s.reads := rfl
@[simp] theorem driveCommand_draws (w : BitVec 16) (v : Quad) (s : State) : (driveCommand w v s).draws = s.draws := rfl

@[simp] theorem writeDout_rstN (v : Quad) (s : State) : (writeDout v s).rstN = s.rstN := rfl
@[simp] theorem writeDout_cmdValid (v : Quad) (s : State) : (writeDout v s).cmdValid = s.cmdValid := rfl
@[simp] theorem writeDout_cmd (v : Quad) (s : State) : (writeDout v s).cmd = s.cmd := rfl
@[simp] theorem writeDout_operand (v : Quad) (s : State) : (writeDout v s).operand = s.operand := rfl
@[simp] theorem writeDout_st (v : Quad) (s : State) : (writeDout v s).st = s.st := rfl
@[simp] theorem writeDout_rk (v : Quad) (s : State) : (writeDout v s).rk = s.rk := rfl
@[simp] theorem writeDout_keyValid (v : Quad) (s : State) : (writeDout v s).keyValid = s.keyValid := rfl
@[simp] theorem writeDout_busy (v : Quad) (s : State) : (writeDout v s).busy = s.busy := rfl
@[simp] theorem writeDout_phase (v : Quad) (s : State) : (writeDout v s).phase = s.phase := rfl
@[simp] theorem writeDout_dout (v : Quad) (s : State) : (writeDout v s).dout = some v := rfl
@[simp] theorem writeDout_doutValid (v : Quad) (s : State) : (writeDout v s).doutValid = true := rfl
@[simp] theorem writeDout_err (v : Quad) (s : State) : (writeDout v s).err = s.err := rfl
@[simp] theorem writeDout_round (v : Quad) (s : State) : (writeDout v s).round = s.round := rfl
@[simp] theorem writeDout_widx (v : Quad) (s : State) : (writeDout v s).widx = s.widx := rfl
@[simp] theorem writeDout_hasRkrd (v : Quad) (s : State) : (writeDout v s).hasRkrd = s.hasRkrd := rfl
@[simp] theorem writeDout_loaded (v : Quad) (s : State) : (writeDout v s).loaded = s.loaded := rfl
@[simp] theorem writeDout_script (v : Quad) (s : State) : (writeDout v s).script = s.script := rfl
@[simp] theorem writeDout_job (v : Quad) (s : State) : (writeDout v s).job = s.job := rfl
@[simp] theorem writeDout_resetPlan (v : Quad) (s : State) : (writeDout v s).resetPlan = s.resetPlan := rfl
@[simp] theorem writeDout_schedule (v : Quad) (s : State) : (writeDout v s).schedule = s.schedule := rfl
@[simp] theorem writeDout_reads (v : Quad) (s : State) : (writeDout v s).reads = s.reads := rfl
@[simp] theorem writeDout_draws (v : Quad) (s : State) : (writeDout v s).draws = s.draws := rfl

@[simp] theorem complete_rstN (s : State) : (complete s).rstN = s.rstN := rfl
@[simp] theorem complete_cmdValid (s : State) : (complete s).cmdValid = s.cmdValid := rfl
@[simp] theorem complete_cmd (s : State) : (complete s).cmd = s.cmd := rfl
@[simp] theorem complete_operand (s : State) : (complete s).operand = s.operand := rfl
@[simp] theorem complete_st (s : State) : (complete s).st = s.st := rfl
@[simp] theorem complete_rk (s : State) : (complete s).rk = s.rk := rfl
@[simp] theorem complete_keyValid (s : State) : (complete s).keyValid = s.keyValid := rfl
@[simp] theorem complete_busy (s : State) : (complete s).busy = false := rfl
@[simp] theorem complete_phase (s : State) : (complete s).phase = .idle := rfl
@[simp] theorem complete_dout (s : State) : (complete s).dout = s.dout := rfl
@[simp] theorem complete_doutValid (s : State) : (complete s).doutValid = s.doutValid := rfl
@[simp] theorem complete_err (s : State) : (complete s).err = 0#4 := rfl
@[simp] theorem complete_round (s : State) : (complete s).round = s.round := rfl
@[simp] theorem complete_widx (s : State) : (complete s).widx = s.widx := rfl
@[simp] theorem complete_hasRkrd (s : State) : (complete s).hasRkrd = s.hasRkrd := rfl
@[simp] theorem complete_loaded (s : State) : (complete s).loaded = s.loaded := rfl
@[simp] theorem complete_script (s : State) : (complete s).script = s.script := rfl
@[simp] theorem complete_job (s : State) : (complete s).job = s.job := rfl
@[simp] theorem complete_resetPlan (s : State) : (complete s).resetPlan = s.resetPlan := rfl
@[simp] theorem complete_schedule (s : State) : (complete s).schedule = s.schedule := rfl
@[simp] theorem complete_reads (s : State) : (complete s).reads = s.reads := rfl
@[simp] theorem complete_draws (s : State) : (complete s).draws = s.draws := rfl

@[simp] theorem resetEngine_rstN (s : State) : (resetEngine s).rstN = s.rstN := rfl
@[simp] theorem resetEngine_cmdValid (s : State) : (resetEngine s).cmdValid = s.cmdValid := rfl
@[simp] theorem resetEngine_cmd (s : State) : (resetEngine s).cmd = s.cmd := rfl
@[simp] theorem resetEngine_operand (s : State) : (resetEngine s).operand = s.operand := rfl
@[simp] theorem resetEngine_st (s : State) : (resetEngine s).st = Block.zero := rfl
@[simp] theorem resetEngine_rk (s : State) : (resetEngine s).rk = Vector.replicate 44 none := rfl
@[simp] theorem resetEngine_keyValid (s : State) : (resetEngine s).keyValid = false := rfl
@[simp] theorem resetEngine_busy (s : State) : (resetEngine s).busy = false := rfl
@[simp] theorem resetEngine_phase (s : State) : (resetEngine s).phase = .idle := rfl
@[simp] theorem resetEngine_dout (s : State) : (resetEngine s).dout = none := rfl
@[simp] theorem resetEngine_doutValid (s : State) : (resetEngine s).doutValid = false := rfl
@[simp] theorem resetEngine_err (s : State) : (resetEngine s).err = 0#4 := rfl
@[simp] theorem resetEngine_round (s : State) : (resetEngine s).round = 0#4 := rfl
@[simp] theorem resetEngine_widx (s : State) : (resetEngine s).widx = 0#6 := rfl
@[simp] theorem resetEngine_hasRkrd (s : State) : (resetEngine s).hasRkrd = s.hasRkrd := rfl
@[simp] theorem resetEngine_loaded (s : State) : (resetEngine s).loaded = none := rfl
@[simp] theorem resetEngine_script (s : State) : (resetEngine s).script = s.script := rfl
@[simp] theorem resetEngine_job (s : State) : (resetEngine s).job = s.job := rfl
@[simp] theorem resetEngine_resetPlan (s : State) : (resetEngine s).resetPlan = s.resetPlan := rfl
@[simp] theorem resetEngine_schedule (s : State) : (resetEngine s).schedule = s.schedule := rfl
@[simp] theorem resetEngine_reads (s : State) : (resetEngine s).reads = s.reads := rfl
@[simp] theorem resetEngine_draws (s : State) : (resetEngine s).draws = s.draws := rfl

@[simp] theorem startCipher_rstN (p : Phase) (r : BitVec 4) (s : State) : (startCipher p r s).rstN = s.rstN := rfl
@[simp] theorem startCipher_cmdValid (p : Phase) (r : BitVec 4) (s : State) : (startCipher p r s).cmdValid = s.cmdValid := rfl
@[simp] theorem startCipher_cmd (p : Phase) (r : BitVec 4) (s : State) : (startCipher p r s).cmd = s.cmd := rfl
@[simp] theorem startCipher_operand (p : Phase) (r : BitVec 4) (s : State) : (startCipher p r s).operand = s.operand := rfl
@[simp] theorem startCipher_st (p : Phase) (r : BitVec 4) (s : State) : (startCipher p r s).st = operandBlock s := rfl
@[simp] theorem startCipher_rk (p : Phase) (r : BitVec 4) (s : State) : (startCipher p r s).rk = s.rk := rfl
@[simp] theorem startCipher_keyValid (p : Phase) (r : BitVec 4) (s : State) : (startCipher p r s).keyValid = s.keyValid := rfl
@[simp] theorem startCipher_busy (p : Phase) (r : BitVec 4) (s : State) : (startCipher p r s).busy = true := rfl
@[simp] theorem startCipher_phase (p : Phase) (r : BitVec 4) (s : State) : (startCipher p r s).phase = p := rfl
@[simp] theorem startCipher_dout (p : Phase) (r : BitVec 4) (s : State) : (startCipher p r s).dout = s.dout := rfl
@[simp] theorem startCipher_doutValid (p : Phase) (r : BitVec 4) (s : State) : (startCipher p r s).doutValid = s.doutValid := rfl
@[simp] theorem startCipher_err (p : Phase) (r : BitVec 4) (s : State) : (startCipher p r s).err = s.err := rfl
@[simp] theorem startCipher_round (p : Phase) (r : BitVec 4) (s : State) : (startCipher p r s).round = r := rfl
@[simp] theorem startCipher_widx (p : Phase) (r : BitVec 4) (s : State) : (startCipher p r s).widx = s.widx := rfl
@[simp] theorem startCipher_hasRkrd (p : Phase) (r : BitVec 4) (s : State) : (startCipher p r s).hasRkrd = s.hasRkrd := rfl
@[simp] theorem startCipher_loaded (p : Phase) (r : BitVec 4) (s : State) : (startCipher p r s).loaded = s.loaded := rfl
@[simp] theorem startCipher_script (p : Phase) (r : BitVec 4) (s : State) : (startCipher p r s).script = s.script := rfl
@[simp] theorem startCipher_job (p : Phase) (r : BitVec 4) (s : State) : (startCipher p r s).job = s.job := rfl
@[simp] theorem startCipher_resetPlan (p : Phase) (r : BitVec 4) (s : State) : (startCipher p r s).resetPlan = s.resetPlan := rfl
@[simp] theorem startCipher_schedule (p : Phase) (r : BitVec 4) (s : State) : (startCipher p r s).schedule = s.schedule := rfl
@[simp] theorem startCipher_reads (p : Phase) (r : BitVec 4) (s : State) : (startCipher p r s).reads = s.reads := rfl
@[simp] theorem startCipher_draws (p : Phase) (r : BitVec 4) (s : State) : (startCipher p r s).draws = s.draws := rfl

@[simp] theorem storeKey_rstN (k : Block) (s : State) : (storeKey k s).rstN = s.rstN := rfl
@[simp] theorem storeKey_cmdValid (k : Block) (s : State) : (storeKey k s).cmdValid = s.cmdValid := rfl
@[simp] theorem storeKey_cmd (k : Block) (s : State) : (storeKey k s).cmd = s.cmd := rfl
@[simp] theorem storeKey_operand (k : Block) (s : State) : (storeKey k s).operand = s.operand := rfl
@[simp] theorem storeKey_st (k : Block) (s : State) : (storeKey k s).st = s.st := rfl
@[simp] theorem storeKey_keyValid (k : Block) (s : State) : (storeKey k s).keyValid = s.keyValid := rfl
@[simp] theorem storeKey_busy (k : Block) (s : State) : (storeKey k s).busy = s.busy := rfl
@[simp] theorem storeKey_phase (k : Block) (s : State) : (storeKey k s).phase = s.phase := rfl
@[simp] theorem storeKey_dout (k : Block) (s : State) : (storeKey k s).dout = s.dout := rfl
@[simp] theorem storeKey_doutValid (k : Block) (s : State) : (storeKey k s).doutValid = s.doutValid := rfl
@[simp] theorem storeKey_err (k : Block) (s : State) : (storeKey k s).err = s.err := rfl
@[simp] theorem storeKey_round (k : Block) (s : State) : (storeKey k s).round = s.round := rfl
@[simp] theorem storeKey_widx (k : Block) (s : State) : (storeKey k s).widx = s.widx := rfl
@[simp] theorem storeKey_hasRkrd (k : Block) (s : State) : (storeKey k s).hasRkrd = s.hasRkrd := rfl
@[simp] theorem storeKey_loaded (k : Block) (s : State) : (storeKey k s).loaded = s.loaded := rfl
@[simp] theorem storeKey_script (k : Block) (s : State) : (storeKey k s).script = s.script := rfl
@[simp] theorem storeKey_job (k : Block) (s : State) : (storeKey k s).job = s.job := rfl
@[simp] theorem storeKey_resetPlan (k : Block) (s : State) : (storeKey k s).resetPlan = s.resetPlan := rfl
@[simp] theorem storeKey_schedule (k : Block) (s : State) : (storeKey k s).schedule = s.schedule := rfl
@[simp] theorem storeKey_reads (k : Block) (s : State) : (storeKey k s).reads = s.reads := rfl
@[simp] theorem storeKey_draws (k : Block) (s : State) : (storeKey k s).draws = s.draws := rfl

@[simp] theorem startKeyExpansion_rstN (s : State) : (startKeyExpansion s).rstN = s.rstN := rfl
@[simp] theorem startKeyExpansion_cmdValid (s : State) : (startKeyExpansion s).cmdValid = s.cmdValid := rfl
@[simp] theorem startKeyExpansion_cmd (s : State) : (startKeyExpansion s).cmd = s.cmd := rfl
@[simp] theorem startKeyExpansion_operand (s : State) : (startKeyExpansion s).operand = s.operand := rfl
@[simp] theorem startKeyExpansion_st (s : State) : (startKeyExpansion s).st = s.st := rfl
@[simp] theorem startKeyExpansion_rk (s : State) : (startKeyExpansion s).rk = (storeKey (operandBlock s) s).rk := rfl
@[simp] theorem startKeyExpansion_keyValid (s : State) : (startKeyExpansion s).keyValid = false := rfl
@[simp] theorem startKeyExpansion_busy (s : State) : (startKeyExpansion s).busy = true := rfl
@[simp] theorem startKeyExpansion_phase (s : State) : (startKeyExpansion s).phase = .kx := rfl
@[simp] theorem startKeyExpansion_dout (s : State) : (startKeyExpansion s).dout = s.dout := rfl
@[simp] theorem startKeyExpansion_doutValid (s : State) : (startKeyExpansion s).doutValid = s.doutValid := rfl
@[simp] theorem startKeyExpansion_err (s : State) : (startKeyExpansion s).err = s.err := rfl
@[simp] theorem startKeyExpansion_round (s : State) : (startKeyExpansion s).round = s.round := rfl
@[simp] theorem startKeyExpansion_widx (s : State) : (startKeyExpansion s).widx = 4#6 := rfl
@[simp] theorem startKeyExpansion_hasRkrd (s : State) : (startKeyExpansion s).hasRkrd = s.hasRkrd := rfl
@[simp] theorem startKeyExpansion_loaded (s : State) : (startKeyExpansion s).loaded = s.loaded := rfl
@[simp] theorem startKeyExpansion_script (s : State) : (startKeyExpansion s).script = s.script := rfl
@[simp] theorem startKeyExpansion_job (s : State) : (startKeyExpansion s).job = s.job := rfl
@[simp] theorem startKeyExpansion_resetPlan (s : State) : (startKeyExpansion s).resetPlan = s.resetPlan := rfl
@[simp] theorem startKeyExpansion_schedule (s : State) : (startKeyExpansion s).schedule = s.schedule := rfl
@[simp] theorem startKeyExpansion_reads (s : State) : (startKeyExpansion s).reads = s.reads := rfl
@[simp] theorem startKeyExpansion_draws (s : State) : (startKeyExpansion s).draws = s.draws := rfl

@[simp] theorem deriveWord_rstN (w : Word) (s : State) : (deriveWord w s).rstN = s.rstN := rfl
@[simp] theorem deriveWord_cmdValid (w : Word) (s : State) : (deriveWord w s).cmdValid = s.cmdValid := rfl
@[simp] theorem deriveWord_cmd (w : Word) (s : State) : (deriveWord w s).cmd = s.cmd := rfl
@[simp] theorem deriveWord_operand (w : Word) (s : State) : (deriveWord w s).operand = s.operand := rfl
@[simp] theorem deriveWord_st (w : Word) (s : State) : (deriveWord w s).st = s.st := rfl
@[simp] theorem deriveWord_rk (w : Word) (s : State) : (deriveWord w s).rk = s.rk.setIfInBounds s.widx.toNat (some w) := rfl
@[simp] theorem deriveWord_keyValid (w : Word) (s : State) : (deriveWord w s).keyValid = s.keyValid := rfl
@[simp] theorem deriveWord_busy (w : Word) (s : State) : (deriveWord w s).busy = s.busy := rfl
@[simp] theorem deriveWord_phase (w : Word) (s : State) : (deriveWord w s).phase = s.phase := rfl
@[simp] theorem deriveWord_dout (w : Word) (s : State) : (deriveWord w s).dout = s.dout := rfl
@[simp] theorem deriveWord_doutValid (w : Word) (s : State) : (deriveWord w s).doutValid = s.doutValid := rfl
@[simp] theorem deriveWord_err (w : Word) (s : State) : (deriveWord w s).err = s.err := rfl
@[simp] theorem deriveWord_round (w : Word) (s : State) : (deriveWord w s).round = s.round := rfl
@[simp] theorem deriveWord_widx (w : Word) (s : State) : (deriveWord w s).widx = s.widx + 1#6 := rfl
@[simp] theorem deriveWord_hasRkrd (w : Word) (s : State) : (deriveWord w s).hasRkrd = s.hasRkrd := rfl
@[simp] theorem deriveWord_loaded (w : Word) (s : State) : (deriveWord w s).loaded = s.loaded := rfl
@[simp] theorem deriveWord_script (w : Word) (s : State) : (deriveWord w s).script = s.script := rfl
@[simp] theorem deriveWord_job (w : Word) (s : State) : (deriveWord w s).job = s.job := rfl
@[simp] theorem deriveWord_resetPlan (w : Word) (s : State) : (deriveWord w s).resetPlan = s.resetPlan := rfl
@[simp] theorem deriveWord_schedule (w : Word) (s : State) : (deriveWord w s).schedule = s.schedule := rfl
@[simp] theorem deriveWord_reads (w : Word) (s : State) : (deriveWord w s).reads = s.reads := rfl
@[simp] theorem deriveWord_draws (w : Word) (s : State) : (deriveWord w s).draws = s.draws := rfl

@[simp] theorem finishExpansion_rstN (s : State) : (finishExpansion s).rstN = s.rstN := rfl
@[simp] theorem finishExpansion_cmdValid (s : State) : (finishExpansion s).cmdValid = s.cmdValid := rfl
@[simp] theorem finishExpansion_cmd (s : State) : (finishExpansion s).cmd = s.cmd := rfl
@[simp] theorem finishExpansion_operand (s : State) : (finishExpansion s).operand = s.operand := rfl
@[simp] theorem finishExpansion_st (s : State) : (finishExpansion s).st = s.st := rfl
@[simp] theorem finishExpansion_rk (s : State) : (finishExpansion s).rk = s.rk := rfl
@[simp] theorem finishExpansion_keyValid (s : State) : (finishExpansion s).keyValid = true := rfl
@[simp] theorem finishExpansion_busy (s : State) : (finishExpansion s).busy = false := rfl
@[simp] theorem finishExpansion_phase (s : State) : (finishExpansion s).phase = .idle := rfl
@[simp] theorem finishExpansion_dout (s : State) : (finishExpansion s).dout = s.dout := rfl
@[simp] theorem finishExpansion_doutValid (s : State) : (finishExpansion s).doutValid = s.doutValid := rfl
@[simp] theorem finishExpansion_err (s : State) : (finishExpansion s).err = 0#4 := rfl
@[simp] theorem finishExpansion_round (s : State) : (finishExpansion s).round = s.round := rfl
@[simp] theorem finishExpansion_widx (s : State) : (finishExpansion s).widx = s.widx := rfl
@[simp] theorem finishExpansion_hasRkrd (s : State) : (finishExpansion s).hasRkrd = s.hasRkrd := rfl
@[simp] theorem finishExpansion_loaded (s : State) : (finishExpansion s).loaded = s.loaded := rfl
@[simp] theorem finishExpansion_script (s : State) : (finishExpansion s).script = s.script := rfl
@[simp] theorem finishExpansion_job (s : State) : (finishExpansion s).job = s.job := rfl
@[simp] theorem finishExpansion_resetPlan (s : State) : (finishExpansion s).resetPlan = s.resetPlan := rfl
@[simp] theorem finishExpansion_schedule (s : State) : (finishExpansion s).schedule = s.schedule := rfl
@[simp] theorem finishExpansion_reads (s : State) : (finishExpansion s).reads = s.reads := rfl
@[simp] theorem finishExpansion_draws (s : State) : (finishExpansion s).draws = s.draws := rfl

@[simp] theorem nextRound_rstN (b : Block) (r : BitVec 4) (s : State) : (nextRound b r s).rstN = s.rstN := rfl
@[simp] theorem nextRound_cmdValid (b : Block) (r : BitVec 4) (s : State) : (nextRound b r s).cmdValid = s.cmdValid := rfl
@[simp] theorem nextRound_cmd (b : Block) (r : BitVec 4) (s : State) : (nextRound b r s).cmd = s.cmd := rfl
@[simp] theorem nextRound_operand (b : Block) (r : BitVec 4) (s : State) : (nextRound b r s).operand = s.operand := rfl
@[simp] theorem nextRound_st (b : Block) (r : BitVec 4) (s : State) : (nextRound b r s).st = b := rfl
@[simp] theorem nextRound_rk (b : Block) (r : BitVec 4) (s : State) : (nextRound b r s).rk = s.rk := rfl
@[simp] theorem nextRound_keyValid (b : Block) (r : BitVec 4) (s : State) : (nextRound b r s).keyValid = s.keyValid := rfl
@[simp] theorem nextRound_busy (b : Block) (r : BitVec 4) (s : State) : (nextRound b r s).busy = s.busy := rfl
@[simp] theorem nextRound_phase (b : Block) (r : BitVec 4) (s : State) : (nextRound b r s).phase = s.phase := rfl
@[simp] theorem nextRound_dout (b : Block) (r : BitVec 4) (s : State) : (nextRound b r s).dout = s.dout := rfl
@[simp] theorem nextRound_doutValid (b : Block) (r : BitVec 4) (s : State) : (nextRound b r s).doutValid = s.doutValid := rfl
@[simp] theorem nextRound_err (b : Block) (r : BitVec 4) (s : State) : (nextRound b r s).err = s.err := rfl
@[simp] theorem nextRound_round (b : Block) (r : BitVec 4) (s : State) : (nextRound b r s).round = r := rfl
@[simp] theorem nextRound_widx (b : Block) (r : BitVec 4) (s : State) : (nextRound b r s).widx = s.widx := rfl
@[simp] theorem nextRound_hasRkrd (b : Block) (r : BitVec 4) (s : State) : (nextRound b r s).hasRkrd = s.hasRkrd := rfl
@[simp] theorem nextRound_loaded (b : Block) (r : BitVec 4) (s : State) : (nextRound b r s).loaded = s.loaded := rfl
@[simp] theorem nextRound_script (b : Block) (r : BitVec 4) (s : State) : (nextRound b r s).script = s.script := rfl
@[simp] theorem nextRound_job (b : Block) (r : BitVec 4) (s : State) : (nextRound b r s).job = s.job := rfl
@[simp] theorem nextRound_resetPlan (b : Block) (r : BitVec 4) (s : State) : (nextRound b r s).resetPlan = s.resetPlan := rfl
@[simp] theorem nextRound_schedule (b : Block) (r : BitVec 4) (s : State) : (nextRound b r s).schedule = s.schedule := rfl
@[simp] theorem nextRound_reads (b : Block) (r : BitVec 4) (s : State) : (nextRound b r s).reads = s.reads := rfl
@[simp] theorem nextRound_draws (b : Block) (r : BitVec 4) (s : State) : (nextRound b r s).draws = s.draws := rfl

@[simp] theorem finishCipher_rstN (b : Block) (s : State) : (finishCipher b s).rstN = s.rstN := rfl
@[simp] theorem finishCipher_cmdValid (b : Block) (s : State) : (finishCipher b s).cmdValid = s.cmdValid := rfl
@[simp] theorem finishCipher_cmd (b : Block) (s : State) : (finishCipher b s).cmd = s.cmd := rfl
@[simp] theorem finishCipher_operand (b : Block) (s : State) : (finishCipher b s).operand = s.operand := rfl
@[simp] theorem finishCipher_st (b : Block) (s : State) : (finishCipher b s).st = b := rfl
@[simp] theorem finishCipher_rk (b : Block) (s : State) : (finishCipher b s).rk = s.rk := rfl
@[simp] theorem finishCipher_keyValid (b : Block) (s : State) : (finishCipher b s).keyValid = s.keyValid := rfl
@[simp] theorem finishCipher_busy (b : Block) (s : State) : (finishCipher b s).busy = false := rfl
@[simp] theorem finishCipher_phase (b : Block) (s : State) : (finishCipher b s).phase = .idle := rfl
@[simp] theorem finishCipher_dout (b : Block) (s : State) : (finishCipher b s).dout = some (vec128 b) := rfl
@[simp] theorem finishCipher_doutValid (b : Block) (s : State) : (finishCipher b s).doutValid = true := rfl
@[simp] theorem finishCipher_err (b : Block) (s : State) : (finishCipher b s).err = 0#4 := rfl
@[simp] theorem finishCipher_round (b : Block) (s : State) : (finishCipher b s).round = s.round := rfl
@[simp] theorem finishCipher_widx (b : Block) (s : State) : (finishCipher b s).widx = s.widx := rfl
@[simp] theorem finishCipher_hasRkrd (b : Block) (s : State) : (finishCipher b s).hasRkrd = s.hasRkrd := rfl
@[simp] theorem finishCipher_loaded (b : Block) (s : State) : (finishCipher b s).loaded = s.loaded := rfl
@[simp] theorem finishCipher_script (b : Block) (s : State) : (finishCipher b s).script = s.script := rfl
@[simp] theorem finishCipher_job (b : Block) (s : State) : (finishCipher b s).job = s.job := rfl
@[simp] theorem finishCipher_resetPlan (b : Block) (s : State) : (finishCipher b s).resetPlan = s.resetPlan := rfl
@[simp] theorem finishCipher_schedule (b : Block) (s : State) : (finishCipher b s).schedule = s.schedule := rfl
@[simp] theorem finishCipher_reads (b : Block) (s : State) : (finishCipher b s).reads = s.reads := rfl
@[simp] theorem finishCipher_draws (b : Block) (s : State) : (finishCipher b s).draws = s.draws := rfl

@[simp] theorem nextTurn_rstN (s : State) : (nextTurn s).rstN = s.rstN := rfl
@[simp] theorem nextTurn_cmdValid (s : State) : (nextTurn s).cmdValid = s.cmdValid := rfl
@[simp] theorem nextTurn_cmd (s : State) : (nextTurn s).cmd = s.cmd := rfl
@[simp] theorem nextTurn_operand (s : State) : (nextTurn s).operand = s.operand := rfl
@[simp] theorem nextTurn_st (s : State) : (nextTurn s).st = s.st := rfl
@[simp] theorem nextTurn_rk (s : State) : (nextTurn s).rk = s.rk := rfl
@[simp] theorem nextTurn_keyValid (s : State) : (nextTurn s).keyValid = s.keyValid := rfl
@[simp] theorem nextTurn_busy (s : State) : (nextTurn s).busy = s.busy := rfl
@[simp] theorem nextTurn_phase (s : State) : (nextTurn s).phase = s.phase := rfl
@[simp] theorem nextTurn_dout (s : State) : (nextTurn s).dout = s.dout := rfl
@[simp] theorem nextTurn_doutValid (s : State) : (nextTurn s).doutValid = s.doutValid := rfl
@[simp] theorem nextTurn_err (s : State) : (nextTurn s).err = s.err := rfl
@[simp] theorem nextTurn_round (s : State) : (nextTurn s).round = s.round := rfl
@[simp] theorem nextTurn_widx (s : State) : (nextTurn s).widx = s.widx := rfl
@[simp] theorem nextTurn_hasRkrd (s : State) : (nextTurn s).hasRkrd = s.hasRkrd := rfl
@[simp] theorem nextTurn_loaded (s : State) : (nextTurn s).loaded = s.loaded := rfl
@[simp] theorem nextTurn_script (s : State) : (nextTurn s).script = s.script := rfl
@[simp] theorem nextTurn_job (s : State) : (nextTurn s).job = s.job := rfl
@[simp] theorem nextTurn_resetPlan (s : State) : (nextTurn s).resetPlan = s.resetPlan := rfl
@[simp] theorem nextTurn_schedule (s : State) : (nextTurn s).schedule = s.schedule.tail := rfl
@[simp] theorem nextTurn_reads (s : State) : (nextTurn s).reads = s.reads := rfl
@[simp] theorem nextTurn_draws (s : State) : (nextTurn s).draws = s.draws := rfl

@[simp] theorem toStage_rstN (c : AdapterCall) (g : Stage) (s : State) : (toStage c g s).rstN = s.rstN := rfl
@[simp] theorem toStage_cmdValid (c : AdapterCall) (g : Stage) (s : State) : (toStage c g s).cmdValid = s.cmdValid := rfl
@[simp] theorem toStage_cmd (c : AdapterCall) (g : Stage) (s : State) : (toStage c g s).cmd = s.cmd := rfl
@[simp] theorem toStage_operand (c : AdapterCall) (g : Stage) (s : State) : (toStage c g s).operand = s.operand := rfl
@[simp] theorem toStage_st (c : AdapterCall) (g : Stage) (s : State) : (toStage c g s).st = s.st := rfl
@[simp] theorem toStage_rk (c : AdapterCall) (g : Stage) (s : State) : (toStage c g s).rk = s.rk := rfl
@[simp] theorem toStage_keyValid (c : AdapterCall) (g : Stage) (s : State) : (toStage c g s).keyValid = s.keyValid := rfl
@[simp] theorem toStage_busy (c : AdapterCall) (g : Stage) (s : State) : (toStage c g s).busy = s.busy := rfl
@[simp] theorem toStage_phase (c : AdapterCall) (g : Stage) (s : State) : (toStage c g s).phase = s.phase := rfl
@[simp] theorem toStage_dout (c : AdapterCall) (g : Stage) (s : State) : (toStage c g s).dout = s.dout := rfl
@[simp] theorem toStage_doutValid (c : AdapterCall) (g : Stage) (s : State) : (toStage c g s).doutValid = s.doutValid := rfl
@[simp] theorem toStage_err (c : AdapterCall) (g : Stage) (s : State) : (toStage c g s).err = s.err := rfl
@[simp] theorem toStage_round (c : AdapterCall) (g : Stage) (s : State) : (toStage c g s).round = s.round := rfl
@[simp] theorem toStage_widx (c : AdapterCall) (g : Stage) (s : State) : (toStage c g s).widx = s.widx := rfl
@[simp] theorem toStage_hasRkrd (c : AdapterCall) (g : Stage) (s : State) : (toStage c g s).hasRkrd = s.hasRkrd := rfl
@[simp] theorem toStage_loaded (c : AdapterCall) (g : Stage) (s : State) : (toStage c g s).loaded = s.loaded := rfl
@[simp] theorem toStage_script (c : AdapterCall) (g : Stage) (s : State) : (toStage c g s).script = s.script := rfl
@[simp] theorem toStage_job (c : AdapterCall) (g : Stage) (s : State) : (toStage c g s).job = some ⟨c, g⟩ := rfl
@[simp] theorem toStage_resetPlan (c : AdapterCall) (g : Stage) (s : State) : (toStage c g s).resetPlan = s.resetPlan := rfl
@[simp] theorem toStage_schedule (c : AdapterCall) (g : Stage) (s : State) : (toStage c g s).schedule = s.schedule := rfl
@[simp] theorem toStage_reads (c : AdapterCall) (g : Stage) (s : State) : (toStage c g s).reads = s.reads := rfl
@[simp] theorem toStage_draws (c : AdapterCall) (g : Stage) (s : State) : (toStage c g s).draws = s.draws := rfl

@[simp] theorem setLoaded_rstN (k : Quad) (s : State) : (setLoaded k s).rstN = s.rstN := rfl
@[simp] theorem setLoaded_cmdValid (k : Quad) (s : State) : (setLoaded k s).cmdValid = s.cmdValid := rfl
@[simp] theorem setLoaded_cmd (k : Quad) (s : State) : (setLoaded k s).cmd = s.cmd := rfl
@[simp] theorem setLoaded_operand (k : Quad) (s : State) : (setLoaded k s).operand = s.operand := rfl
@[simp] theorem setLoaded_st (k : Quad) (s : State) : (setLoaded k s).st = s.st := rfl
@[simp] theorem setLoaded_rk (k : Quad) (s : State) : (setLoaded k s).rk = s.rk := rfl
@[simp] theorem setLoaded_keyValid (k : Quad) (s : State) : (setLoaded k s).keyValid = s.keyValid := rfl
@[simp] theorem setLoaded_busy (k : Quad) (s : State) : (setLoaded k s).busy = s.busy := rfl
@[simp] theorem setLoaded_phase (k : Quad) (s : State) : (setLoaded k s).phase = s.phase := rfl
@[simp] theorem setLoaded_dout (k : Quad) (s : State) : (setLoaded k s).dout = s.dout := rfl
@[simp] theorem setLoaded_doutValid (k : Quad) (s : State) : (setLoaded k s).doutValid = s.doutValid := rfl
@[simp] theorem setLoaded_err (k : Quad) (s : State) : (setLoaded k s).err = s.err := rfl
@[simp] theorem setLoaded_round (k : Quad) (s : State) : (setLoaded k s).round = s.round := rfl
@[simp] theorem setLoaded_widx (k : Quad) (s : State) : (setLoaded k s).widx = s.widx := rfl
@[simp] theorem setLoaded_hasRkrd (k : Quad) (s : State) : (setLoaded k s).hasRkrd = s.hasRkrd := rfl
@[simp] theorem setLoaded_loaded (k : Quad) (s : State) : (setLoaded k s).loaded = some k := rfl
@[simp] theorem setLoaded_script (k : Quad) (s : State) : (setLoaded k s).script = s.script := rfl
@[simp] theorem setLoaded_job (k : Quad) (s : State) : (setLoaded k s).job = s.job := rfl
@[simp] theorem setLoaded_resetPlan (k : Quad) (s : State) : (setLoaded k s).resetPlan = s.resetPlan := rfl
@[simp] theorem setLoaded_schedule (k : Quad) (s : State) : (setLoaded k s).schedule = s.schedule := rfl
@[simp] theorem setLoaded_reads (k : Quad) (s : State) : (setLoaded k s).reads = s.reads := rfl
@[simp] theorem setLoaded_draws (k : Quad) (s : State) : (setLoaded k s).draws = s.draws := rfl

@[simp] theorem returnCall_rstN (r : CallResult) (s : State) : (returnCall r s).rstN = s.rstN := rfl
@[simp] theorem returnCall_cmdValid (r : CallResult) (s : State) : (returnCall r s).cmdValid = s.cmdValid := rfl
@[simp] theorem returnCall_cmd (r : CallResult) (s : State) : (returnCall r s).cmd = s.cmd := rfl
@[simp] theorem returnCall_operand (r : CallResult) (s : State) : (returnCall r s).operand = s.operand := rfl
@[simp] theorem returnCall_st (r : CallResult) (s : State) : (returnCall r s).st = s.st := rfl
@[simp] theorem returnCall_rk (r : CallResult) (s : State) : (returnCall r s).rk = s.rk := rfl
@[simp] theorem returnCall_keyValid (r : CallResult) (s : State) : (returnCall r s).keyValid = s.keyValid := rfl
@[simp] theorem returnCall_busy (r : CallResult) (s : State) : (returnCall r s).busy = s.busy := rfl
@[simp] theorem returnCall_phase (r : CallResult) (s : State) : (returnCall r s).phase = s.phase := rfl
@[simp] theorem returnCall_dout (r : CallResult) (s : State) : (returnCall r s).dout = s.dout := rfl
@[simp] theorem returnCall_doutValid (r : CallResult) (s : State) : (returnCall r s).doutValid = s.doutValid := rfl
@[simp] theorem returnCall_err (r : CallResult) (s : State) : (returnCall r s).err = s.err := rfl
@[simp] theorem returnCall_round (r : CallResult) (s : State) : (returnCall r s).round = s.round := rfl
@[simp] theorem returnCall_widx (r : CallResult) (s : State) : (returnCall r s).widx = s.widx := rfl
@[simp] theorem returnCall_hasRkrd (r : CallResult) (s : State) : (returnCall r s).hasRkrd = s.hasRkrd := rfl
@[simp] theorem returnCall_loaded (r : CallResult) (s : State) : (returnCall r s).loaded = s.loaded := rfl
@[simp] theorem returnCall_script (r : CallResult) (s : State) : (returnCall r s).script = s.script := rfl
@[simp] theorem returnCall_job (r : CallResult) (s : State) : (returnCall r s).job = none := rfl
@[simp] theorem returnCall_resetPlan (r : CallResult) (s : State) : (returnCall r s).resetPlan = s.resetPlan := rfl
@[simp] theorem returnCall_schedule (r : CallResult) (s : State) : (returnCall r s).schedule = s.schedule := rfl
@[simp] theorem returnCall_reads (r : CallResult) (s : State) : (returnCall r s).reads = s.reads ++ [.callResult r] := rfl
@[simp] theorem returnCall_draws (r : CallResult) (s : State) : (returnCall r s).draws = s.draws := rfl

@[simp] theorem record_rstN (r : HostRead) (s : State) : (record r s).rstN = s.rstN := rfl
@[simp] theorem record_cmdValid (r : HostRead) (s : State) : (record r s).cmdValid = s.cmdValid := rfl
@[simp] theorem record_cmd (r : HostRead) (s : State) : (record r s).cmd = s.cmd := rfl
@[simp] theorem record_operand (r : HostRead) (s : State) : (record r s).operand = s.operand := rfl
@[simp] theorem record_st (r : HostRead) (s : State) : (record r s).st = s.st := rfl
@[simp] theorem record_rk (r : HostRead) (s : State) : (record r s).rk = s.rk := rfl
@[simp] theorem record_keyValid (r : HostRead) (s : State) : (record r s).keyValid = s.keyValid := rfl
@[simp] theorem record_busy (r : HostRead) (s : State) : (record r s).busy = s.busy := rfl
@[simp] theorem record_phase (r : HostRead) (s : State) : (record r s).phase = s.phase := rfl
@[simp] theorem record_dout (r : HostRead) (s : State) : (record r s).dout = s.dout := rfl
@[simp] theorem record_doutValid (r : HostRead) (s : State) : (record r s).doutValid = s.doutValid := rfl
@[simp] theorem record_err (r : HostRead) (s : State) : (record r s).err = s.err := rfl
@[simp] theorem record_round (r : HostRead) (s : State) : (record r s).round = s.round := rfl
@[simp] theorem record_widx (r : HostRead) (s : State) : (record r s).widx = s.widx := rfl
@[simp] theorem record_hasRkrd (r : HostRead) (s : State) : (record r s).hasRkrd = s.hasRkrd := rfl
@[simp] theorem record_loaded (r : HostRead) (s : State) : (record r s).loaded = s.loaded := rfl
@[simp] theorem record_script (r : HostRead) (s : State) : (record r s).script = s.script := rfl
@[simp] theorem record_job (r : HostRead) (s : State) : (record r s).job = s.job := rfl
@[simp] theorem record_resetPlan (r : HostRead) (s : State) : (record r s).resetPlan = s.resetPlan := rfl
@[simp] theorem record_schedule (r : HostRead) (s : State) : (record r s).schedule = s.schedule := rfl
@[simp] theorem record_reads (r : HostRead) (s : State) : (record r s).reads = s.reads ++ [r] := rfl
@[simp] theorem record_draws (r : HostRead) (s : State) : (record r s).draws = s.draws := rfl

end Sys2Proof.Machine
end

