-- ==== Sys2Proof/Laws/Ops.lean ====
section
/-!
SUPPORT. What the shared operations do, each said once: sequencing of outcomes, reads of RK after a write, and the
operations that leave RK alone.
-/

namespace Sys2Proof.Machine

section Outcomes
variable {α β γ : Type}

@[simp] theorem bindNext_next (a : α) (f : α → Host.Outcome β Fault Refusal) : bindNext (.next a) f = f a := rfl

@[simp] theorem bindNext_fault (e : Fault) (f : α → Host.Outcome β Fault Refusal) :
    bindNext (.fault e) f = .fault e := rfl

@[simp] theorem bindNext_refused (r : Refusal) (f : α → Host.Outcome β Fault Refusal) :
    bindNext (.refused r) f = .refused r := rfl

@[simp] theorem mapNext_next (f : α → β) (a : α) :
    mapNext f (.next a : Host.Outcome α Fault Refusal) = .next (f a) := rfl

@[simp] theorem mapNext_fault (f : α → β) (e : Fault) :
    mapNext f (.fault e : Host.Outcome α Fault Refusal) = .fault e := rfl

@[simp] theorem mapNext_refused (f : α → β) (r : Refusal) :
    mapNext f (.refused r : Host.Outcome α Fault Refusal) = .refused r := rfl

/-- A sequence answers a next state exactly when both parts do. -/
theorem bindNext_eq_next {o : Host.Outcome α Fault Refusal} {f : α → Host.Outcome β Fault Refusal} {b : β} :
    bindNext o f = .next b ↔ ∃ a, o = .next a ∧ f a = .next b := by
  cases o <;> simp

theorem mapNext_eq_next {o : Host.Outcome α Fault Refusal} {f : α → β} {b : β} :
    mapNext f o = .next b ↔ ∃ a, o = .next a ∧ f a = b := by
  cases o <;> simp

/-- A sequence faults exactly when its first part does or its second does after it. -/
theorem bindNext_eq_fault {o : Host.Outcome α Fault Refusal} {f : α → Host.Outcome β Fault Refusal} {e : Fault} :
    bindNext o f = .fault e ↔ o = .fault e ∨ ∃ a, o = .next a ∧ f a = .fault e := by
  cases o <;> simp

theorem mapNext_eq_fault {o : Host.Outcome α Fault Refusal} {f : α → β} {e : Fault} :
    mapNext f o = .fault e ↔ o = .fault e := by
  cases o <;> simp

theorem bindNext_assoc (o : Host.Outcome α Fault Refusal) (f : α → Host.Outcome β Fault Refusal)
    (g : β → Host.Outcome γ Fault Refusal) :
    bindNext (bindNext o f) g = bindNext o fun a => bindNext (f a) g := by
  cases o <;> rfl

end Outcomes

/-- The word a KX_STEP writes reads back. -/
theorem rkWord_deriveWord_same {s : State} (h : s.widx.toNat < 44) (w : Word) :
    rkWord (deriveWord w s) s.widx.toNat = w := by
  simp [rkWord, h]

/-- A KX_STEP leaves every other word alone. -/
theorem rkWord_deriveWord_other {s : State} {j : Nat} (h : j ≠ s.widx.toNat) (w : Word) :
    rkWord (deriveWord w s) j = rkWord s j := by
  simp [rkWord, Ne.symm h]

/-- The four words KEYEXP's acceptance loads read back. -/
theorem rkWord_storeKey (k : Block) (s : State) :
    rkWord (storeKey k s) 0 = word k.c0 ∧ rkWord (storeKey k s) 1 = word k.c1 ∧
    rkWord (storeKey k s) 2 = word k.c2 ∧ rkWord (storeKey k s) 3 = word k.c3 := by
  simp [rkWord, storeKey]

/-- KEYEXP's acceptance leaves every other word alone. -/
theorem rk_storeKey_high (k : Block) (s : State) {i : Nat} (h : 4 ≤ i) : (storeKey k s).rk[i]? = s.rk[i]? := by
  have h0 : 0 ≠ i := by omega
  have h1 : 1 ≠ i := by omega
  have h2 : 2 ≠ i := by omega
  have h3 : 3 ≠ i := by omega
  simp [storeKey, h0, h1, h2, h3]

/-- The word store decides what is read of it. -/
theorem rkWord_congr {s t : State} (h : t.rk = s.rk) : rkWord t = rkWord s := by
  funext i; simp [rkWord, h]

/-- The word a KX_STEP writes is written (R38). -/
theorem rkWritten_deriveWord_same {s : State} (h : s.widx.toNat < 44) (w : Word) :
    rkWritten (deriveWord w s) s.widx.toNat :=
  ⟨w, by simp [h]⟩

/-- A written word stays written under a KX_STEP. -/
theorem rkWritten_deriveWord {s : State} {j : Nat} (h : s.widx.toNat < 44) (w : Word) (hj : rkWritten s j) :
    rkWritten (deriveWord w s) j := by
  by_cases e : j = s.widx.toNat
  · exact e ▸ rkWritten_deriveWord_same h w
  · obtain ⟨v, hv⟩ := hj
    exact ⟨v, by simp [Ne.symm e, hv]⟩

/-- The four words KEYEXP's acceptance loads are written (R38). -/
theorem rkWritten_storeKey (k : Block) (s : State) {i : Nat} (h : i < 4) : rkWritten (storeKey k s) i := by
  unfold rkWritten storeKey
  interval_cases i <;> simp

theorem rkWritten_congr {s t : State} (h : t.rk = s.rk) (i : Nat) : rkWritten t i ↔ rkWritten s i := by
  simp [rkWritten, h]

theorem rkExpandedBelow_congr {s t : State} (h : t.rk = s.rk) (n : Nat) :
    rkExpandedBelow t n ↔ rkExpandedBelow s n := by
  simp [rkExpandedBelow, rkWord_congr h]

@[simp] theorem raise_eq (e : ErrKind) (s : State) : raise e s = .next { s with err := errCode e } := rfl

end Sys2Proof.Machine
end

