-- ==== Sys2Proof/Laws/Engine.lean ====
section
/-!
SUPPORT. What an acceptance, a micro-step and a step can do, each said once as an inversion lemma.
-/

namespace Sys2Proof.Machine

/-- Everything an acceptance of a decoded command can do: raise the error of R267, or the command's own action. -/
inductive ExecCase (i : Instr) (s : State) : State → Prop where
  | error (e : ErrKind) (h : acceptError i s = some e) : ExecCase i s { s with err := errCode e }
  | keyexp (hi : i = .keyexp 16#5) : ExecCase i s (startKeyExpansion s)
  | enc (hi : i = .enc 16#5) (hk : s.keyValid = true) : ExecCase i s (startCipher .enc 0#4 s)
  | dec (hi : i = .dec 16#5) (hk : s.keyValid = true) : ExecCase i s (startCipher .dec 10#4 s)
  | rkrd (r : BitVec 5) (hi : i = .rkrd r) (hr : r.toNat ≤ 10) (hh : s.hasRkrd = true) (hk : s.keyValid = true) :
      ExecCase i s (complete (writeDout (roundKey (rkWord s) r.toNat) s))

/-- An acceptance answers a next state, which is one of those cases. -/
theorem exec_cases (i : Instr) (s : State) : ∃ t, exec i s = .next t ∧ ExecCase i s t := by
  cases i with
  | keyexp len =>
    by_cases h : len = 16#5
    · exact ⟨_, by simp [exec, execKeyexp, lenIs16, h], .keyexp (by rw [h])⟩
    · exact ⟨_, by simp [exec, execKeyexp, lenIs16, h], .error .invalidKeyLength (by simp [acceptError, requestError, lenIs16, h])⟩
  | enc len =>
    by_cases h : len = 16#5
    · cases hk : s.keyValid
      · exact ⟨_, by simp [exec, execEnc, lenIs16, h, hk], .error .keyNotLoaded (by simp [acceptError, requestError, lenIs16, needsKey, h, hk])⟩
      · exact ⟨_, by simp [exec, execEnc, lenIs16, h, hk], .enc (by rw [h]) hk⟩
    · exact ⟨_, by simp [exec, execEnc, lenIs16, h], .error .invalidBlockLength (by simp [acceptError, requestError, lenIs16, h])⟩
  | dec len =>
    by_cases h : len = 16#5
    · cases hk : s.keyValid
      · exact ⟨_, by simp [exec, execDec, lenIs16, h, hk], .error .keyNotLoaded (by simp [acceptError, requestError, lenIs16, needsKey, h, hk])⟩
      · exact ⟨_, by simp [exec, execDec, lenIs16, h, hk], .dec (by rw [h]) hk⟩
    · exact ⟨_, by simp [exec, execDec, lenIs16, h], .error .invalidBlockLength (by simp [acceptError, requestError, lenIs16, h])⟩
  | rkrd r =>
    cases hh : s.hasRkrd
    · exact ⟨_, by simp [exec, execRkrd, hh], .error .illegalCommand (by simp [acceptError, requestError, hh])⟩
    · by_cases h : r.toNat ≤ 10
      · cases hk : s.keyValid
        · exact ⟨_, by simp [exec, execRkrd, ridxInRange, hh, h, hk], .error .keyNotLoaded (by simp [acceptError, requestError, ridxInRange, needsKey, hh, h, hk])⟩
        · exact ⟨_, by simp [exec, execRkrd, ridxInRange, hh, h, hk], .rkrd r rfl h hh hk⟩
      · exact ⟨_, by simp [exec, execRkrd, ridxInRange, hh, h], .error .illegalCommand (by simp [acceptError, requestError, ridxInRange, hh, h])⟩

/-- The inversion form of `exec_cases`. -/
theorem exec_eq_next {i : Instr} {s t : State} (h : exec i s = .next t) : ExecCase i s t := by
  obtain ⟨u, hu, hc⟩ := exec_cases i s
  rw [hu] at h
  cases h
  exact hc

/-- Everything an accepting step can do. -/
theorem accept_eq_next {s t : State} (h : accept s = .next t) :
    (∃ e, decode s.hasRkrd s.cmd = .error e ∧ t = { takeOffer s with err := errCode .illegalCommand }) ∨
    (∃ i, decode s.hasRkrd s.cmd = .ok i ∧ ExecCase i (takeOffer s) t) := by
  unfold accept at h
  split at h
  · exact .inr ⟨_, ‹_›, exec_eq_next h⟩
  · cases h; exact .inl ⟨_, ‹_›, rfl⟩

/-- An accepting step always answers a next state. -/
theorem accept_total (s : State) : ∃ t, accept s = .next t := by
  unfold accept
  split
  · obtain ⟨t, ht, _⟩ := exec_cases ‹_› (takeOffer s)
    exact ⟨t, ht⟩
  · exact ⟨_, rfl⟩

/-- The word a KX_STEP writes (R147). -/
def kxWord (s : State) : Word :=
  rkWord s (s.widx.toNat - 4) ^^^ keyTemp s.widx.toNat (rkWord s (s.widx.toNat - 1))

/-- Everything a micro-step can do, with the sequencer in range. -/
inductive MicroCase (s : State) : State → Prop where
  | idle (hp : s.phase = .idle) : MicroCase s s
  | kx (hp : s.phase = .kx) (lo : 4 ≤ s.widx.toNat) (hi : s.widx.toNat < 43) :
      MicroCase s (deriveWord (kxWord s) s)
  | kxDone (hp : s.phase = .kx) (hw : s.widx.toNat = 43) :
      MicroCase s (finishExpansion (deriveWord (kxWord s) s))
  | encFirst (hp : s.phase = .enc) (hr : s.round.toNat = 0) :
      MicroCase s (nextRound (addRoundKey (rkWord s) 0 s.st) 1#4 s)
  | encRound (hp : s.phase = .enc) (lo : 1 ≤ s.round.toNat) (hi : s.round.toNat ≤ 9) :
      MicroCase s (nextRound (encRound (rkWord s) s.round.toNat s.st) (s.round + 1#4) s)
  | encLast (hp : s.phase = .enc) (hr : s.round.toNat = 10) :
      MicroCase s (finishCipher (encFinal (rkWord s) s.st) s)
  | decFirst (hp : s.phase = .dec) (hr : s.round.toNat = 10) :
      MicroCase s (nextRound (addRoundKey (rkWord s) 10 s.st) 9#4 s)
  | decRound (hp : s.phase = .dec) (lo : 1 ≤ s.round.toNat) (hi : s.round.toNat ≤ 9) :
      MicroCase s (nextRound (decRound (rkWord s) s.round.toNat s.st) (s.round - 1#4) s)
  | decLast (hp : s.phase = .dec) (hr : s.round.toNat = 0) :
      MicroCase s (finishCipher (decFinal (rkWord s) s.st) s)

theorem kxStep_mid {s : State} (lo : 4 ≤ s.widx.toNat) (hi : s.widx.toNat < 43) :
    kxStep s = .next (deriveWord (kxWord s) s) := by
  have h1 : s.widx.toNat ≤ 43 := by omega
  have h2 : s.widx.toNat ≠ 43 := by omega
  simp only [kxStep, kxWord, lo, h1, h2, and_self, if_true, if_false]

theorem kxStep_last {s : State} (hw : s.widx.toNat = 43) :
    kxStep s = .next (finishExpansion (deriveWord (kxWord s) s)) := by
  simp [kxStep, kxWord, hw]

theorem encStep_first {s : State} (hr : s.round.toNat = 0) :
    encStep s = .next (nextRound (addRoundKey (rkWord s) 0 s.st) 1#4 s) := by
  simp [encStep, hr]

theorem encStep_mid {s : State} (lo : 1 ≤ s.round.toNat) (hi : s.round.toNat ≤ 9) :
    encStep s = .next (nextRound (encRound (rkWord s) s.round.toNat s.st) (s.round + 1#4) s) := by
  have h : s.round.toNat ≠ 0 := by omega
  simp only [encStep, h, hi, if_true, if_false]

theorem encStep_last {s : State} (hr : s.round.toNat = 10) :
    encStep s = .next (finishCipher (encFinal (rkWord s) s.st) s) := by
  simp [encStep, hr]

theorem decStep_first {s : State} (hr : s.round.toNat = 10) :
    decStep s = .next (nextRound (addRoundKey (rkWord s) 10 s.st) 9#4 s) := by
  simp [decStep, hr]

theorem decStep_mid {s : State} (lo : 1 ≤ s.round.toNat) (hi : s.round.toNat ≤ 9) :
    decStep s = .next (nextRound (decRound (rkWord s) s.round.toNat s.st) (s.round - 1#4) s) := by
  have h0 : s.round.toNat ≠ 0 := by omega
  have h10 : s.round.toNat ≠ 10 := by omega
  simp only [decStep, h0, h10, hi, if_true, if_false]

theorem decStep_last {s : State} (hr : s.round.toNat = 0) :
    decStep s = .next (finishCipher (decFinal (rkWord s) s.st) s) := by
  simp [decStep, hr]

/-- With the sequencer in range a micro-step answers a next state, one of the cases. -/
theorem microStep_cases {s : State}
    (hk : s.phase = .kx → 4 ≤ s.widx.toNat ∧ s.widx.toNat ≤ 43)
    (hr : s.phase = .enc ∨ s.phase = .dec → s.round.toNat ≤ 10) :
    ∃ t, microStep s = .next t ∧ MicroCase s t := by
  unfold microStep
  split
  next hp => exact ⟨s, rfl, .idle hp⟩
  next hp =>
    obtain ⟨lo, hi⟩ := hk hp
    by_cases hw : s.widx.toNat = 43
    · exact ⟨_, kxStep_last hw, .kxDone hp hw⟩
    · exact ⟨_, kxStep_mid lo (by omega), .kx hp lo (by omega)⟩
  next hp =>
    have hi := hr (.inl hp)
    by_cases h0 : s.round.toNat = 0
    · exact ⟨_, encStep_first h0, .encFirst hp h0⟩
    · by_cases h10 : s.round.toNat = 10
      · exact ⟨_, encStep_last h10, .encLast hp h10⟩
      · exact ⟨_, encStep_mid (by omega) (by omega), .encRound hp (by omega) (by omega)⟩
  next hp =>
    have hi := hr (.inr hp)
    by_cases h0 : s.round.toNat = 0
    · exact ⟨_, decStep_last h0, .decLast hp h0⟩
    · by_cases h10 : s.round.toNat = 10
      · exact ⟨_, decStep_first h10, .decFirst hp h10⟩
      · exact ⟨_, decStep_mid (by omega) (by omega), .decRound hp (by omega) (by omega)⟩

/-- The inversion form of `microStep_cases`: an answer shows that the sequencer was in range. -/
theorem microStep_eq_next {s t : State} (h : microStep s = .next t) : MicroCase s t := by
  have inRange : (s.phase = .kx → 4 ≤ s.widx.toNat ∧ s.widx.toNat ≤ 43) ∧
      (s.phase = .enc ∨ s.phase = .dec → s.round.toNat ≤ 10) := by
    refine ⟨fun hp => ?_, fun hp => ?_⟩
    · by_contra hc
      simp [microStep, hp, kxStep, hc] at h
    · by_contra hc
      have h0 : s.round.toNat ≠ 0 := by omega
      have h9 : ¬ s.round.toNat ≤ 9 := by omega
      have h10 : s.round.toNat ≠ 10 := by omega
      rcases hp with hp | hp <;> simp [microStep, hp, encStep, decStep, h0, h9, h10] at h
  obtain ⟨u, hu, hc⟩ := microStep_cases inRange.1 inRange.2
  rw [hu] at h
  cases h
  exact hc

/-- A micro-step changes no port, build parameter or host field. -/
theorem microStep_sameOutside {s t : State} (h : microStep s = .next t) : SameOutside s t := by
  cases microStep_eq_next h <;> constructor <;> simp

/-- An acceptance changes no port, build parameter or host field. -/
theorem exec_sameOutside {i : Instr} {s t : State} (h : exec i s = .next t) : SameOutside s t := by
  cases exec_eq_next h <;> constructor <;> simp

/-- `n + 1` micro-steps, the last one singled out. -/
theorem microSteps_succ (n : Nat) (s : State) :
    microSteps (n + 1) s = bindNext (microSteps n s) microStep := by
  induction n generalizing s with
  | zero => simp only [microSteps, bindNext_next]; cases microStep s <;> rfl
  | succ n ih =>
    rw [microSteps]
    conv_rhs => rw [microSteps, bindNext_assoc]
    congr 1
    funext a
    exact ih a

/-- The sequence of micro-steps splits anywhere. -/
theorem microSteps_add (m n : Nat) (s : State) :
    microSteps (m + n) s = bindNext (microSteps m s) (microSteps n) := by
  induction m generalizing s with
  | zero => simp [microSteps]
  | succ m ih =>
    rw [show m + 1 + n = (m + n) + 1 by omega]
    simp only [microSteps, bindNext_assoc]
    congr 1
    funext a
    exact ih a

/-- KEYEXP with LEN = 16 starts the expansion (R222). -/
theorem exec_keyexp_16 (s : State) : exec (.keyexp 16#5) s = .next (startKeyExpansion s) := by
  simp [exec, execKeyexp, lenIs16]

/-- The round-key store right after that is the store with the key's four words. -/
theorem rkWord_startKeyExpansion (s : State) :
    rkWord (startKeyExpansion s) = rkWord (storeKey (operandBlock s) s) :=
  rkWord_congr (startKeyExpansion_rk s)

/-- WIDX counts up without wrapping (R29). -/
theorem widx_succ {w : BitVec 6} (h : w.toNat ≤ 43) : (w + 1#6).toNat = w.toNat + 1 := by
  simp [BitVec.toNat_add]
  omega

/-- ROUND counts up without wrapping in ENC (R28). -/
theorem round_succ {w : BitVec 4} (h : w.toNat ≤ 9) : (w + 1#4).toNat = w.toNat + 1 := by
  simp [BitVec.toNat_add]
  omega

/-- ROUND counts down without wrapping in DEC (R28). -/
theorem round_pred {w : BitVec 4} (h : 1 ≤ w.toNat) : (w - 1#4).toNat = w.toNat - 1 := by
  simp [BitVec.toNat_sub]
  omega

theorem SameOutside.trans {a b c : State} (h : SameOutside a b) (k : SameOutside b c) : SameOutside a c where
  rstN := k.rstN.trans h.rstN
  cmdValid := k.cmdValid.trans h.cmdValid
  cmd := k.cmd.trans h.cmd
  operand := k.operand.trans h.operand
  hasRkrd := k.hasRkrd.trans h.hasRkrd
  loaded := k.loaded.trans h.loaded
  script := k.script.trans h.script
  job := k.job.trans h.job
  resetPlan := k.resetPlan.trans h.resetPlan
  schedule := k.schedule.trans h.schedule
  reads := k.reads.trans h.reads
  draws := k.draws.trans h.draws

end Sys2Proof.Machine
end

