-- ==== Sys2Proof/Laws/Gf.lean ====
section
/-!
SUPPORT. The field doubling and the multiplication are additive (R100: addition is exclusive or), and an additive
function on bytes is fixed by its values on the eight powers of x.
-/

namespace Sys2Proof.Machine

/-- `xtime` as a shift and a conditional reduction. -/
theorem xtime_eq (a : Byte) : xtime a = (a <<< 1) ^^^ (if a.getLsbD 7 then 0x1b#8 else 0#8) := by
  unfold xtime
  split <;> simp

theorem xtime_xor (a b : Byte) : xtime (a ^^^ b) = xtime a ^^^ xtime b := by
  simp only [xtime_eq, BitVec.shiftLeft_xor_distrib, BitVec.getLsbD_xor]
  have reduction (p q : Bool) : (if (p ^^ q) then 0x1b#8 else 0#8) =
      (if p then 0x1b#8 else 0#8) ^^^ (if q then 0x1b#8 else 0#8) := by
    cases p <;> cases q <;> rfl
  rw [reduction]
  ac_rfl

theorem xtimes_xor (a b : Byte) (k : Nat) : xtimes (a ^^^ b) k = xtimes a k ^^^ xtimes b k := by
  induction k with
  | zero => rfl
  | succ k ih => simp only [xtimes, ih, xtime_xor]

/-- The products of a fold of gfmul over some bit positions, started at `p`. -/
theorem gfmul_fold_start (m : Nat → Byte) (c : Nat → Bool) (ks : List Nat) (p : Byte) :
    ks.foldl (fun q k => if c k then q ^^^ m k else q) p =
      p ^^^ ks.foldl (fun q k => if c k then q ^^^ m k else q) 0#8 := by
  induction ks generalizing p with
  | nil => simp
  | cons k ks ih =>
    simp only [List.foldl_cons]
    rw [ih, ih (if c k then 0#8 ^^^ m k else 0#8)]
    split <;> simp [BitVec.xor_assoc]

/-- Multiplication is additive in its first operand. -/
theorem gfmul_xor_left (a b c : Byte) : gfmul (a ^^^ b) c = gfmul a c ^^^ gfmul b c := by
  unfold gfmul
  generalize List.range 8 = ks
  induction ks with
  | nil => simp
  | cons k ks ih =>
    simp only [List.foldl_cons]
    rw [gfmul_fold_start (xtimes (a ^^^ b)), gfmul_fold_start (xtimes a), gfmul_fold_start (xtimes b), ih]
    split
    · simp only [xtimes_xor, BitVec.zero_xor]; ac_rfl
    · simp

/-- The powers of x add up to every byte. -/
theorem byte_eq_sum_of_bits (a : Byte) :
    a = (List.range 8).foldl (fun p k => if a.getLsbD k then p ^^^ (1#8 <<< k) else p) 0#8 := by
  revert a; decide

/-- An additive function that is zero on the powers of x is zero. -/
theorem additive_eq_zero {f : Byte → Byte} (add : ∀ a b, f (a ^^^ b) = f a ^^^ f b)
    (basis : ∀ k, k < 8 → f (1#8 <<< k) = 0#8) (a : Byte) : f a = 0#8 := by
  have zero : f 0#8 = 0#8 := by simpa using add 0#8 0#8
  have fold (ks : List Nat) (hk : ∀ k ∈ ks, k < 8) (p : Byte) (hp : f p = 0#8) :
      f (ks.foldl (fun p k => if a.getLsbD k then p ^^^ (1#8 <<< k) else p) p) = 0#8 := by
    induction ks generalizing p with
    | nil => simpa using hp
    | cons k ks ih =>
      simp only [List.foldl_cons]
      refine ih (fun j hj => hk j (List.mem_cons_of_mem _ hj)) _ ?_
      split
      · rw [add, hp, basis k (hk k List.mem_cons_self)]; rfl
      · exact hp
  rw [byte_eq_sum_of_bits a]
  exact fold _ (fun k hk => List.mem_range.mp hk) _ zero

end Sys2Proof.Machine
end

