-- ==== Sys2Proof/Laws/Step.lean ====
section
/-!
SUPPORT. What one step of the machine can be, said once.
-/

namespace Sys2Proof.Machine

/-- An offer is taken exactly with cmd_valid = 1 and BUSY = 0 (R71). -/
theorem offerReady_iff {s : State} : offerReady s = true ↔ s.cmdValid = true ∧ s.busy = false := by
  simp [offerReady, cmdReady]

/-- With no read of the host due, an accepting step only accepts. -/
theorem hostLook_none {turn : Option Agent} {s : State} (h : ¬(turn = some .host ∧ readIsNext s = true)) :
    hostLook turn s = .next s := by
  simp only [hostLook, h, if_false]

/-- The step with a command offered and the engine ready is its acceptance, after the read of the host that is due, if
any (R71, R229). -/
theorem step_of_offer {s : State} (hn : s.rstN = true) (hv : s.cmdValid = true) (hb : s.busy = false) :
    step s = bindNext (hostLook s.schedule.head? (nextTurn s)) accept := by
  simp [step, machineStep, runningStep, offerReady, cmdReady, hn, hv, hb]

/-- The step with no offer to take: the agent whose turn it is. -/
theorem step_of_turn {s : State} (hn : s.rstN = true) (ho : offerReady s = false) :
    step s = agentStep (chooseAgent s.schedule.head? (nextTurn s)) (nextTurn s) := by
  have ho' : offerReady (nextTurn s) = false := by simpa [offerReady, cmdReady] using ho
  simp [step, machineStep, runningStep, hn, ho']

/-- The step with rst_n = 0: the reset values, then the host or the outside. -/
theorem step_of_reset {s : State} (hn : s.rstN = false) :
    step s = agentStep (chooseAgent s.schedule.head? (holdInReset (nextTurn s))) (holdInReset (nextTurn s)) := by
  simp [step, machineStep, resetStep, hn]

/-- Every step is one of those three. -/
theorem step_shape (s : State) :
    (s.rstN = true ∧ s.cmdValid = true ∧ s.busy = false ∧
      step s = bindNext (hostLook s.schedule.head? (nextTurn s)) accept) ∨
    (s.rstN = true ∧ offerReady s = false ∧
      step s = agentStep (chooseAgent s.schedule.head? (nextTurn s)) (nextTurn s)) ∨
    (s.rstN = false ∧
      step s = agentStep (chooseAgent s.schedule.head? (holdInReset (nextTurn s))) (holdInReset (nextTurn s))) := by
  cases hn : s.rstN
  · exact .inr (.inr ⟨rfl, step_of_reset hn⟩)
  · cases ho : offerReady s
    · exact .inr (.inl ⟨rfl, rfl, step_of_turn hn ho⟩)
    · obtain ⟨hv, hb⟩ := offerReady_iff.1 ho
      exact .inl ⟨rfl, hv, hb, step_of_offer hn hv hb⟩

/-- Whoever is chosen can go. -/
theorem chooseAgent_enabled {turn : Option Agent} {s : State} {a : Agent} (h : chooseAgent turn s = some a) :
    agentEnabled a s = true := by
  have first : firstEnabled s = some a → agentEnabled a s = true := by
    unfold firstEnabled
    split
    · rintro ⟨⟩; assumption
    · split
      · rintro ⟨⟩; assumption
      · split <;> rintro ⟨⟩
        assumption
  unfold chooseAgent at h
  split at h
  · split at h
    · cases h; assumption
    · exact first h
  · exact first h

/-- An agent whose turn it is and that can go, goes. -/
theorem chooseAgent_turn {s : State} {a : Agent} (h : agentEnabled a s = true) : chooseAgent (some a) s = some a := by
  simp [chooseAgent, h]

/-- Where only one agent can go, it goes, whosever turn it is. -/
theorem chooseAgent_only {turn : Option Agent} {s : State} {a : Agent} (h : agentEnabled a s = true)
    (others : ∀ b, b ≠ a → agentEnabled b s = false) : chooseAgent turn s = some a := by
  have first : firstEnabled s = some a := by
    unfold firstEnabled
    cases a
    · simp [h, others .engine (by simp)]
    · simp [h]
    · simp [h, others .engine (by simp), others .host (by simp)]
  unfold chooseAgent
  split
  next b =>
    by_cases hb : b = a
    · simp [hb, h]
    · simp [others b hb, first]
  · exact first

/-- Everything an agent that goes can do. -/
theorem agentStep_cases {P : Result → Prop} {turn : Option Agent} {s : State}
    (engine : s.phase ≠ .idle → P (microStep s)) (host : hostEnabled s = true → P (hostStep s))
    (outside : P (.next (outsideStep s))) (idle : P (.next s)) : P (agentStep (chooseAgent turn s) s) := by
  cases hc : chooseAgent turn s with
  | none => exact idle
  | some a =>
    have he := chooseAgent_enabled hc
    cases a with
    | engine => exact engine (by simpa [agentEnabled, microEnabled] using he)
    | host => exact host he
    | outside => exact outside

/-- The very next step after `withFetchWord` is the acceptance of the word (log 14). -/
theorem step_withFetchWord (s : State) (w : Nat) :
    step (s.withFetchWord 16 w) = accept (placeCommand (BitVec.ofNat 16 (w % 2 ^ 16)) s) := by
  rw [step_of_offer rfl rfl rfl, hostLook_none (by rintro ⟨⟨⟩, -⟩)]
  rfl

end Sys2Proof.Machine
end

