-- ==== Sys2Proof/Laws/Host.lean ====
section
/-!
SUPPORT. What the host's reads, its lines, the adapter's actions, the outside and reset can do, each said once.
-/

namespace Sys2Proof.Machine

/-- Everything a read of DOUT can answer (R230). -/
theorem readDout_eq_next {s t : State} {v : Quad} (h : readDout s = .next (t, v)) :
    (s.busy = true ∧ t = { s with draws := s.draws + 1 } ∧ v = Config.busyDout s.draws) ∨
    (s.busy = false ∧ s.doutValid = true ∧ t = s ∧ v = s.dout.getD Config.unwrittenDout) := by
  unfold readDout at h
  split at h
  · cases h; exact .inl ⟨‹_›, rfl, rfl⟩
  · split at h <;> cases h
    exact .inr ⟨by simp_all, by simp_all, rfl, rfl⟩

/-- A read of DOUT stops exactly where R280 says: with BUSY = 0 and DOUT_VALID = 0. -/
theorem readDout_eq_fault {s : State} {f : Fault} :
    readDout s = .fault f ↔ f = .readUnwrittenDOUT ∧ s.busy = false ∧ s.doutValid = false := by
  cases hb : s.busy <;> cases hv : s.doutValid <;> simp [readDout, hb, hv, eq_comm (a := f)]

/-- A read of DOUT with a result there (R230). -/
theorem readDout_valid {s : State} {v : Quad} (hb : s.busy = false) (hv : s.doutValid = true) (hd : s.dout = some v) :
    readDout s = .next (s, v) := by
  simp [readDout, hb, hv, hd]

/-- A read of DOUT before any result (R230, R280). -/
theorem readDout_unwritten {s : State} (hb : s.busy = false) (hv : s.doutValid = false) :
    readDout s = .fault .readUnwrittenDOUT := by
  simp [readDout, hb, hv]

/-- The registers of the engine are the same in both states. -/
structure SameEngine (s t : State) : Prop where
  st : t.st = s.st
  rk : t.rk = s.rk
  keyValid : t.keyValid = s.keyValid
  busy : t.busy = s.busy
  phase : t.phase = s.phase
  dout : t.dout = s.dout
  doutValid : t.doutValid = s.doutValid
  err : t.err = s.err
  round : t.round = s.round
  widx : t.widx = s.widx

theorem SameEngine.trans {a b c : State} (h : SameEngine a b) (k : SameEngine b c) : SameEngine a c where
  st := k.st.trans h.st
  rk := k.rk.trans h.rk
  keyValid := k.keyValid.trans h.keyValid
  busy := k.busy.trans h.busy
  phase := k.phase.trans h.phase
  dout := k.dout.trans h.dout
  doutValid := k.doutValid.trans h.doutValid
  err := k.err.trans h.err
  round := k.round.trans h.round
  widx := k.widx.trans h.widx

/-- The invariant speaks of the engine's registers alone. -/
theorem Inv.congr {s t : State} (e : SameEngine s t) (h : Inv s) : Inv t := by
  obtain ⟨⟨b1, b2, b3, b4, b5, b6, b7⟩, ⟨c1, c2, c3, c4⟩⟩ := h
  obtain ⟨-, erk, ekv, eb, ep, ed, edv, ee, er, ew⟩ := e
  refine ⟨⟨?_, ?_, ?_, ?_, ?_, ?_, ?_⟩, ⟨?_, ?_, ?_, ?_⟩⟩ <;>
    simp only [ekv, eb, ep, ed, edv, ee, er, ew, rkWritten_congr erk, rkExpandedBelow_congr erk] <;> assumption

/-- A read of DOUT changes no register of the engine (R230: with no side effect). -/
theorem readDout_sameEngine {s : State} {p : State × Quad} (h : readDout s = .next p) : SameEngine s p.1 := by
  obtain ⟨t, v⟩ := p
  rcases readDout_eq_next h with ⟨-, rfl, -⟩ | ⟨-, -, rfl, -⟩ <;> constructor <;> rfl

/-- No action of the adapter changes a register of the engine: it works through the port and the reads. -/
theorem jobStep_sameEngine {j : Job} {s t : State} (h : jobStep j s = .next t) : SameEngine s t := by
  obtain ⟨c, g⟩ := j
  cases g with
  | start =>
    simp only [jobStep, startCall] at h
    repeat' split at h
    all_goals first
      | (cases h; constructor <;> rfl)
      | cases h
  | loading k => cases h; constructor <;> rfl
  | running =>
    simp only [jobStep, commandDone] at h
    split at h
    · cases h; constructor <;> rfl
    · split at h
      · obtain ⟨p, hp, rfl⟩ := mapNext_eq_next.1 h
        exact (readDout_sameEngine hp).trans (by constructor <;> rfl)
      · split at h <;> cases h <;> constructor <;> rfl
  | reading r got =>
    obtain ⟨p, hp, rfl⟩ := mapNext_eq_next.1 h
    refine (readDout_sameEngine hp).trans ?_
    split <;> constructor <;> rfl

/-- No step of the host changes a register of the engine. -/
theorem hostStep_sameEngine {s t : State} (h : hostStep s = .next t) : SameEngine s t := by
  unfold hostStep at h
  split at h
  · exact jobStep_sameEngine h
  · split at h
    · cases h; constructor <;> rfl
    next l rest hs =>
      cases l with
      | rdout =>
        obtain ⟨p, hp, rfl⟩ := mapNext_eq_next.1 h
        exact SameEngine.trans (a := s) (by constructor <;> rfl)
          ((readDout_sameEngine hp).trans (by constructor <;> rfl))
      | offer | hold | withdraw | wait | rdstat | call => cases h; constructor <;> rfl

/-- A host that reads while a command is being accepted changes no register of the engine and no port (R229, R230). -/
theorem hostLook_eq_next {turn : Option Agent} {s t : State} (h : hostLook turn s = .next t) :
    SameEngine s t ∧ t.rstN = s.rstN ∧ t.cmdValid = s.cmdValid ∧ t.cmd = s.cmd ∧ t.operand = s.operand ∧
    t.hasRkrd = s.hasRkrd := by
  unfold hostLook at h
  split at h
  next hd =>
    refine ⟨hostStep_sameEngine h, ?_⟩
    have hr := hd.2
    unfold readIsNext at hr
    unfold hostStep at h
    split at hr <;> simp_all
    · cases h; simp [record]
    · obtain ⟨p, hp, rfl⟩ := mapNext_eq_next.1 h
      obtain ⟨u, v⟩ := p
      rcases readDout_eq_next hp with ⟨-, rfl, -⟩ | ⟨-, -, rfl, -⟩ <;> simp [record]
  · cases h; exact ⟨by constructor <;> rfl, rfl, rfl, rfl, rfl, rfl⟩

/-- The outside changes rst_n and its plan alone. -/
theorem outsideStep_sameEngine (s : State) : SameEngine s (outsideStep s) := by
  unfold outsideStep
  split <;> constructor <;> rfl

/-- A turn used up changes no register of the engine. -/
theorem nextTurn_sameEngine (s : State) : SameEngine s (nextTurn s) := by constructor <;> rfl

/-- Abandoning a call changes no register of the engine. -/
theorem abandonCall_sameEngine (s : State) : SameEngine s (abandonCall s) := by
  unfold abandonCall
  split <;> constructor <;> rfl

end Sys2Proof.Machine
end

