-- ==== Sys2Proof/Laws/PerInstr.lean ====
section
/-!
SUPPORT. Statements made for each instruction, one lemma per constructor.
-/

namespace Sys2Proof.Laws.CommandWord

/-- The word of an instruction under the mask of R77: RSVD is zero and OP is the row's. -/
def matchWord : Instr → BitVec 16
  | .keyexp _ => 0x0001#16
  | .enc _ => 0x0002#16
  | .dec _ => 0x0003#16
  | .rkrd _ => 0x0004#16

/-- The field of an instruction, LEN or RIDX (R73). -/
def fieldOf : Instr → BitVec 5
  | .keyexp len => len
  | .enc len => len
  | .dec len => len
  | .rkrd ridx => ridx

/-- R73, R77: an instruction's word has its row's match under the mask 0xFE0F and carries its field in bits 8:4. -/
def Statement (i : Instr) : Prop :=
  encode i &&& 0xfe0f#16 = matchWord i ∧ argField (encode i) = fieldOf i

theorem keyexp (len : BitVec 5) : Statement (.keyexp len) := by
  unfold Statement; revert len; decide

theorem enc (len : BitVec 5) : Statement (.enc len) := by
  unfold Statement; revert len; decide

theorem dec (len : BitVec 5) : Statement (.dec len) := by
  unfold Statement; revert len; decide

theorem rkrd (ridx : BitVec 5) : Statement (.rkrd ridx) := by
  unfold Statement; revert ridx; decide

end Sys2Proof.Laws.CommandWord
end

