-- ==== Sys2Proof/Tests/Slice0.lean ====
section
/-!
SUPPORT. The model's own tests, with expected values from spec/ (95_test_vectors.md where no other source is named), and
a witness for the hypotheses of each obligation that has some.
-/

namespace Sys2Proof.Tests

open Sys2Proof.Machine

/-- A field of the next state, if there is one. -/
def after {α : Type} (o : Result) (f : State → α) : Option α :=
  match o with
  | .next s => some (f s)
  | .fault _ => none
  | .refused _ => none

/-- The reason of a fault, if the step faults. -/
def faultOf (o : Result) : Option Fault :=
  match o with
  | .next _ => none
  | .fault f => some f
  | .refused _ => none

/-- The key of V1. -/
def key : Quad := 0x000102030405060708090a0b0c0d0e0f#128

/-- The plaintext of V1. -/
def plain : Quad := 0x00112233445566778899aabbccddeeff#128

/-- The ciphertext of V1. -/
def secret : Quad := 0x69c4e0d86a7b0430d8cdb78070b4c55a#128

/-- After reset with a command offered. -/
def offering (w : BitVec 16) (v : Quad) : State := { State.reset with cmdValid := true, cmd := w, operand := v }

/-- V1's key loaded: RK is the table of R150. -/
def loadedState : State := { State.reset with rk := Vector.ofFn fun i => some (keyWord key i.val), keyValid := true }

/-- KEYEXP just accepted. -/
def expanding : State := startKeyExpansion { State.reset with operand := key }

/-- A block in the pipeline, at a round. -/
def ciphering (phase : Phase) (round : BitVec 4) (block : Quad) : State :=
  { loadedState with phase := phase, busy := true, round := round, st := bytes16 block }

/-- A host with lines to run. -/
def hosting (lines : List HostLine) : State := { State.reset with script := lines }

/-! ### WellFormed -/

theorem test_rkrd_needs_the_unit : (Instr.rkrd 0#5).wellFormed false = false := by decide
theorem test_keyexp_15_is_no_legal_field : (Instr.keyexp 15#5).legalField = false := by decide
theorem test_enc_17_is_no_legal_field : (Instr.enc 17#5).legalField = false := by decide
theorem test_dec_0_is_no_legal_field : (Instr.dec 0#5).legalField = false := by decide
theorem test_rkrd_11_is_no_legal_field : (Instr.rkrd 11#5).legalField = false := by decide

/-! ### Decode: words from R77 and R81, RSVD, field and OP written out -/

theorem test_decode_keyexp : decode true (0b0000000#7 ++ 0b10000#5 ++ 0b0001#4) = .ok (.keyexp 16#5) := by decide
theorem test_decode_enc_15 : decode true (0b0000000#7 ++ 0b01111#5 ++ 0b0010#4) = .ok (.enc 15#5) := by decide
theorem test_decode_dec : decode true (0b0000000#7 ++ 0b10000#5 ++ 0b0011#4) = .ok (.dec 16#5) := by decide
theorem test_decode_rkrd_10 : decode true (0b0000000#7 ++ 0b01010#5 ++ 0b0100#4) = .ok (.rkrd 10#5) := by decide
theorem test_decode_rsvd : decode true 0x8101#16 = .error .reservedBits := by decide
theorem test_decode_zero : decode true 0x0000#16 = .error .illegalOp := by decide
theorem test_decode_f : decode true 0x010f#16 = .error .illegalOp := by decide
theorem test_decode_no_rkrd : decode false 0x00a4#16 = .error .rkrdAbsent := by decide
theorem test_decode_table_word : decodeTableWord 16 0x00f2 = some (.enc 15#5) := by decide
theorem test_decode_table_other_width : decodeTableWord 32 0x00f2 = none := by decide

/-! ### Arithmetic, tables, layers (T-GF, T-TAB, T-KS, T-LAY) -/

theorem test_xtime : xtime 0x80#8 = 0x1b#8 ∧ xtime 0x7f#8 = 0xfe#8 ∧ xtime 0xae#8 = 0x47#8 := by decide
theorem test_gfmul : gfmul 0x57#8 0x83#8 = 0xc1#8 ∧ gfmul 0x0e#8 0x0e#8 = 0x54#8 ∧ gfmul 0xff#8 0x03#8 = 0x1a#8 := by
  decide
theorem test_sbox : sbox 0x53#8 = 0xed#8 ∧ sbox 0xff#8 = 0x16#8 ∧ invSbox 0x16#8 = 0xff#8 ∧ invSbox 0x00#8 = 0x52#8 := by
  decide
theorem test_rotWord_subWord : rotWord 0x80000000#32 = 0x00000080#32 ∧ subWord 0x0d0e0f0c#32 = 0xd7ab76fe#32 := by decide
theorem test_keyWord : keyWord key 4 = 0xd6aa74fd#32 ∧ keyWord key 5 = 0xd2af72fa#32 := by decide +kernel
theorem test_subBytes : vec128 (subBytes (bytes16 plain)) = 0x638293c31bfc33f5c4eeacea4bc12816#128 := by decide +kernel
theorem test_shiftRows : vec128 (shiftRows (bytes16 key)) = 0x00050a0f04090e03080d02070c01060b#128 := by decide +kernel
theorem test_invShiftRows : vec128 (invShiftRows (bytes16 key)) = 0x000d0a0704010e0b0805020f0c090603#128 := by
  decide +kernel
theorem test_mixColumn : mixColumn ⟨0xdb, 0x13, 0x53, 0x45⟩ = ⟨0x8e, 0x4d, 0xa1, 0xbc⟩ := by decide +kernel
theorem test_invMixColumn : invMixColumn ⟨0x80, 0x00, 0x00, 0x00⟩ = ⟨0x41, 0xec, 0xda, 0xf7⟩ := by decide +kernel
theorem test_encrypt_V1 : vec128 (encrypt (keyWord key) (bytes16 plain)) = secret := by decide +kernel
theorem test_decrypt_V1 : vec128 (decrypt (keyWord key) (bytes16 secret)) = plain := by decide +kernel

/-! ### One step of each command -/

/-- R147's example: WIDX = 4 writes RK[4]. -/
theorem test_keyexp_first_word : after (step expanding) (fun s => (s.rk[4]?, s.widx)) =
    some (some (some 0xd6aa74fd#32), 5#6) := by decide +kernel

/-- R262: LEN = 15 leaves everything but ERR. -/
theorem test_keyexp_15 : after (step (offering 0x00f1#16 key)) (fun s => (status s, s.rk[0]?)) =
    some (0x10#8, some none) := by decide +kernel

/-- V1 trace, ROUND 1. -/
theorem test_enc_round_1 :
    after (step (ciphering .enc 1#4 0x00102030405060708090a0b0c0d0e0f0#128)) (fun s => (vec128 s.st, s.round)) =
      some (0x89d810e8855ace682d1843d8cb128fe4#128, 2#4) := by decide +kernel

/-- V1 trace, ROUND 10 (R195). -/
theorem test_enc_round_10 :
    after (step (ciphering .enc 10#4 0xbd6e7c3df2b5779e0b61216e8b10b689#128)) (fun s => (s.dout, status s)) =
      some (some secret, 0x06#8) := by decide +kernel

/-- V2 trace, ROUND 9 (R197). -/
theorem test_dec_round_9 :
    after (step (ciphering .dec 9#4 0x7ad5fda789ef4e272bca100b3d9ff59f#128)) (fun s => (vec128 s.st, s.round)) =
      some (0x54d990a16ba09ab596bbf40ea111702f#128, 8#4) := by decide +kernel

/-- V2 trace, ROUND 0 (R198). -/
theorem test_dec_round_0 :
    after (step (ciphering .dec 0#4 0x6353e08c0960e104cd70b751bacad0e7#128)) (fun s => (s.dout, status s)) =
      some (some plain, 0x06#8) := by decide +kernel

/-- R226's example. -/
theorem test_rkrd_10 :
    after (step { loadedState with cmdValid := true, cmd := 0x00a4#16 }) (fun s => (s.dout, status s)) =
      some (some 0x13111d7fe3944a17f307a78b4d2b30c5#128, 0x06#8) := by decide +kernel

/-- R267: the field check comes before the key check. -/
theorem test_rkrd_11_before_key : after (step (offering 0x00b4#16 key)) status = some 0x50#8 := by decide +kernel

/-- R265: the block is not taken without a key. -/
theorem test_enc_without_key : after (step (offering 0x0102#16 plain)) (fun s => (status s, s.st)) =
    some (0x40#8, Block.zero) := by decide +kernel

/-- R227's example. -/
theorem test_illegal_word : after (step (offering 0x0000#16 0#128)) status = some 0x50#8 := by decide +kernel

/-- P7: RDOUT before any result is a fault of the host program. -/
theorem test_rdout_unwritten : faultOf (step (hosting [.rdout])) = some .readUnwrittenDOUT := by decide +kernel

/-- R229: STATUS while a key expands. -/
theorem test_rdstat_busy : after (step { expanding with script := [.rdstat], schedule := [.host] }) (fun s => s.reads) =
    some [.status 0x01#8] := by decide +kernel

/-- R229, R228: STATUS with an offer held at the port, which stays there. -/
theorem test_rdstat_while_an_offer_is_held :
    after (step { expanding with cmdValid := true, script := [.rdstat], schedule := [.host] })
      (fun s => (s.reads, s.cmdValid)) = some ([.status 0x01#8], true) := by decide +kernel

/-- R291: reset drops the key and the running command. -/
theorem test_reset_while_busy : after (step { ciphering .enc 5#4 plain with rstN := false }) (fun s =>
    (status s, s.phase, s.rk[0]?)) = some (0x00#8, .idle, some none) := by decide +kernel

/-- R292: reset inside an adapter call: its command is abandoned and no result comes back. -/
theorem test_reset_inside_a_call :
    after (step { ciphering .enc 5#4 plain with
        rstN := false, job := some ⟨.encryptBlock [] (.handle key), .running⟩ })
      (fun s => (status s, s.job, s.reads)) = some (0x00#8, none, []) := by decide +kernel

/-- log 14: the step after withFetchWord accepts the word. -/
theorem test_withFetchWord : after (step (State.reset.withFetchWord 16 0x0101)) (fun s => (s.phase, s.cmdValid)) =
    some (.kx, false) := by decide +kernel

/-- R81: `ENC ..., len=15` is word 0x00F2 with that operand. -/
theorem test_assemble : assembleLine (.command (.enc 15#5) plain) = [.offer 0x00f2#16 plain, .hold] := by decide

/-- R240: the adapter offers nothing for an element that is no byte. -/
theorem test_byte_range : after (step { State.reset with job := some ⟨.expandKey [256], .start⟩ })
    (fun s => (s.reads, s.cmdValid)) = some ([.callResult (.error 3#4)], false) := by decide +kernel

/-! ### The hypotheses of the obligations can be met -/

theorem loadedState_word {i : Nat} (h : i < 44) : rkWord loadedState i = keyWord key i := by
  simp [rkWord, loadedState, h]

/-- A state of the invariant with a key loaded and a block at any round. -/
theorem ciphering_inv (phase : Phase) (round : BitVec 4) (block : Quad) (hp : phase = .enc ∨ phase = .dec)
    (hr : round.toNat ≤ 10) : Inv (ciphering phase round block) where
  control := by
    constructor
    all_goals first
      | exact fun _ => hr
      | (rcases hp with rfl | rfl <;> simp [ciphering, loadedState, State.reset])
  keyStore := by
    have word {i : Nat} (h : i < 44) : rkWord (ciphering phase round block) i = keyWord key i :=
      loadedState_word h
    constructor
    · intro _ i hi
      exact ⟨keyWord key i, by simp [ciphering, loadedState, hi]⟩
    · intro _ i hi
      rw [word hi, word (by omega), word (by omega), keyWord]
    all_goals intro h; rcases hp with rfl | rfl <;> simp [ciphering] at h

/-- A state of the invariant with a key expansion running. -/
theorem expanding_inv : Inv expanding where
  control := by constructor <;> simp [expanding, State.reset]
  keyStore := by
    constructor
    · simp [expanding]
    · simp [expanding]
    · intro _ i hi
      exact (rkWritten_congr (startKeyExpansion_rk _) i).2 (rkWritten_storeKey _ _ (by simpa [expanding] using hi))
    · intro _ i hi
      simp [expanding] at hi

/-- A state of the invariant at rest, with a key loaded, an error shown and a host. -/
theorem loaded_inv (err : BitVec 4) (he : err = 1#4 ∨ err = 4#4) (lines : List HostLine) :
    Inv { loadedState with err := err, script := lines } where
  control := by
    constructor
    all_goals first
      | exact he.elim (fun h => .inr (.inl h)) (fun h => .inr (.inr (.inr (.inl h))))
      | simp [loadedState, State.reset]
  keyStore := by
    have word {i : Nat} (h : i < 44) : rkWord { loadedState with err := err, script := lines } i = keyWord key i :=
      loadedState_word h
    constructor
    · intro _ i hi
      exact ⟨keyWord key i, by simp [loadedState, hi]⟩
    · intro _ i hi
      rw [word hi, word (by omega), word (by omega), keyWord]
    all_goals intro h; simp [loadedState, State.reset] at h

theorem witness_DecodeOfEncodeIsTheInstruction :
    (Instr.dec 31#5).wellFormed false = true ∧ (Instr.rkrd 31#5).wellFormed true = true := by decide

theorem witness_EncodeOfDecodeIsTheWord : decode true 0x01f4#16 = .ok (.rkrd 31#5) := by decide

/-- Nobody's turn, then the host's with a read of each kind as its next line. -/
theorem witness_StepRunsTheDecodedCommand :
    (∃ (s : State) (i : Instr), s.rstN = true ∧ s.cmdValid = true ∧ s.busy = false ∧ decode s.hasRkrd s.cmd = .ok i ∧
      ¬ (s.schedule.head? = some .host ∧ readIsNext s = true)) ∧
    (∃ (s : State) (i : Instr), s.rstN = true ∧ s.cmdValid = true ∧ s.busy = false ∧ decode s.hasRkrd s.cmd = .ok i ∧
      s.job = none ∧ s.schedule = [.host] ∧ s.script = [.rdstat]) ∧
    ∃ (s : State) (i : Instr), s.rstN = true ∧ s.cmdValid = true ∧ s.busy = false ∧ decode s.hasRkrd s.cmd = .ok i ∧
      s.job = none ∧ s.schedule = [.host] ∧ s.script = [.rdout] ∧ s.doutValid = true ∧ s.dout = some secret :=
  ⟨⟨offering 0x0101#16 key, .keyexp 16#5, by decide⟩,
   ⟨{ offering 0x0101#16 key with script := [.rdstat], schedule := [.host] }, .keyexp 16#5, by decide⟩,
   ⟨{ offering 0x0101#16 key with script := [.rdout], schedule := [.host], dout := some secret, doutValid := true },
    .keyexp 16#5, by decide⟩⟩

theorem witness_IllegalCommandWritesOnlyErr :
    (∀ w ∈ [0x0201#16, 0x0010#16, 0x0005#16, 0x01ff#16],
      (offering w key).cmd.extractLsb' 9 7 ≠ 0#7 ∨ (offering w key).cmd.extractLsb' 0 4 = 0#4 ∨
        5 ≤ ((offering w key).cmd.extractLsb' 0 4).toNat) ∧
    ((0x0004#16).extractLsb' 0 4 = 4#4 ∧ { offering 0x0004#16 key with hasRkrd := false }.hasRkrd = false) ∧
    10 < (11#5).toNat := by simp [offering, State.reset]

theorem witness_FifteenAndSeventeenByteInputsFail :
    ∀ w ∈ [0x00f1#16, 0x0111#16, 0x00f2#16, 0x0112#16, 0x00f3#16, 0x0113#16], (offering w key).cmd = w := by
  simp [offering]

theorem witness_ErrorsAreReportedInPriorityOrder :
    ((∃ x ∈ callBytes (.expandKey [0, -1]), x < 0 ∨ 255 < x) ∧
      ∃ x ∈ callBytes (.decryptBlock [256] (.handle key)), x < 0 ∨ 255 < x) ∧
    decode true (offering 0xffff#16 key).cmd = .error .reservedBits ∧ (15#5 ≠ 16#5 ∧ 17#5 ≠ 16#5) ∧ 10 < (11#5).toNat ∧
    (State.reset.keyValid = false ∧ State.reset.hasRkrd = true ∧ (10#5).toNat ≤ 10) ∧
    (∃ t, (Instr.rkrd 10#5).legalField = true ∧ (Instr.rkrd 10#5).wellFormed loadedState.hasRkrd = true ∧
      loadedState.keyValid = true ∧ exec (.rkrd 10#5) loadedState = .next t) :=
  ⟨by decide, by decide, by decide, by decide, by decide, _, rfl, rfl, rfl, rfl⟩

/-- Held at the last round, which frees the port for it; accepted; and withdrawn. -/
theorem witness_CommandOfferedWhileBusyIsHeld :
    (∃ s t : State, s.rstN = true ∧ s.cmdValid = true ∧ s.busy = true ∧ step s = .next t ∧ t.busy = false) ∧
    ((offering 0x0103#16 key).rstN = true ∧ (offering 0x0103#16 key).cmdValid = true ∧
      (offering 0x0103#16 key).busy = false) ∧
    ∃ s : State, s.rstN = true ∧ s.cmdValid = true ∧ s.busy = true ∧ s.job = none ∧ s.script = [.withdraw] ∧
      s.schedule = [.host] :=
  ⟨⟨{ ciphering .enc 10#4 plain with cmdValid := true, cmd := 0x0103#16 }, _, rfl, rfl, rfl, rfl, rfl⟩,
   ⟨rfl, rfl, rfl⟩,
   ⟨{ ciphering .enc 10#4 plain with cmdValid := true, script := [.withdraw], schedule := [.host] },
    rfl, rfl, rfl, rfl, rfl, rfl⟩⟩

theorem witness_BlockCommandAcceptanceLoadsTheBlock : loadedState.keyValid = true := rfl

theorem witness_RkrdReadsOneRoundKey :
    State.reset.hasRkrd = true ∧ 10 < (11#5).toNat ∧ ((10#5).toNat ≤ 10 ∧ State.reset.keyValid = false) ∧
    loadedState.hasRkrd = true ∧ (0#5).toNat ≤ 10 ∧ (10#5).toNat ≤ 10 ∧ loadedState.keyValid = true := by decide

theorem witness_CommandsLeaveTheRestAlone :
    (∃ t, exec (.keyexp 16#5) State.reset = .next t) ∧ (expanding.phase = .kx ∧ ∃ t, microStep expanding = .next t) ∧
    (∃ t, exec (.enc 16#5) loadedState = .next t) ∧ (∃ t, exec (.dec 16#5) loadedState = .next t) ∧
    ((ciphering .dec 0#4 secret).phase = .dec ∧ ∃ t, microStep (ciphering .dec 0#4 secret) = .next t) ∧
    (loadedState.busy = false ∧ loadedState.phase = .idle ∧ ∃ t, exec (.rkrd 0#5) loadedState = .next t) ∧
    acceptError (.enc 16#5) State.reset = some .keyNotLoaded :=
  ⟨⟨_, rfl⟩, ⟨rfl, _, rfl⟩, ⟨_, rfl⟩, ⟨_, rfl⟩, ⟨rfl, _, rfl⟩, ⟨rfl, rfl, _, rfl⟩, by decide⟩

theorem witness_ErrIsTheLastOutcome :
    decode (offering 0x0000#16 key).hasRkrd (offering 0x0000#16 key).cmd = .error .illegalOp ∧
    acceptError (.keyexp 0#5) State.reset = some .invalidKeyLength ∧
    (acceptError (.rkrd 10#5) loadedState = none ∧ ∃ t, exec (.rkrd 10#5) loadedState = .next t) ∧
    (acceptError (.keyexp 16#5) State.reset = none ∧ ∃ t, exec (.keyexp 16#5) State.reset = .next t) ∧
    (expanding.phase ≠ .idle ∧ ∃ t, microStep expanding = .next t) ∧
    ∃ s t : State, Inv s ∧ s.rstN = true ∧ step s = .next t ∧ t.busy ≠ s.busy :=
  ⟨by decide, by decide, ⟨by decide, _, rfl⟩, ⟨by decide, _, rfl⟩, ⟨by decide, _, rfl⟩,
    ciphering .enc 10#4 plain, _, ciphering_inv _ _ _ (.inl rfl) (by decide), rfl, rfl, by decide⟩

theorem witness_KxStepDerivesOneWord :
    (expanding.phase = .kx ∧ expanding.widx.toNat = 4) ∧
    ∃ s : State, s.phase = .kx ∧ 4 ≤ s.widx.toNat ∧ s.widx.toNat ≤ 43 ∧ s.widx.toNat = 43 :=
  ⟨by decide, { expanding with widx := 43#6 }, by decide⟩

theorem witness_EncStepAppliesOneRound : ∀ r ∈ [0#4, 1#4, 9#4, 10#4],
    (ciphering .enc r plain).phase = .enc ∧ (ciphering .enc r plain).round = r := by decide +kernel

theorem witness_DecStepAppliesOneInverseRound : ∀ r ∈ [10#4, 9#4, 1#4, 0#4],
    (ciphering .dec r secret).phase = .dec ∧ (ciphering .dec r secret).round = r := by decide +kernel

theorem witness_StatusDuringKeyExpansion : 0 < 40 ∧ 39 < 40 := by decide

theorem witness_MicroStepsComputeEncryptAndDecrypt : loadedState.keyValid = true := rfl

theorem witness_StepCountsAreFixed :
    loadedState.busy = false ∧ loadedState.phase = .idle ∧ (∃ t, exec (.enc 16#5) loadedState = .next t) ∧
    10 < commandMicroSteps (.enc 16#5) loadedState ∧ 39 < commandMicroSteps (.keyexp 16#5) loadedState :=
  ⟨rfl, rfl, ⟨_, rfl⟩, by decide, by decide⟩

/-- Byte 13 of the shifted State is byte 1 of the State (row 1), and byte 1 of the inversely shifted one is byte 13. -/
theorem witness_LayersFollowTheirByteFormulas :
    (1 : Fin 16).val = (13 : Fin 16).val % 4 + 4 * (((13 : Fin 16).val / 4 + (13 : Fin 16).val % 4) % 4) ∧
    (13 : Fin 16).val = (1 : Fin 16).val % 4 + 4 * (((1 : Fin 16).val / 4 + 4 - (1 : Fin 16).val % 4) % 4) := by decide

theorem witness_GfmulIsFieldMultiplication : 0x53#8 ≠ 0#8 ∧ gfmul 0x53#8 0xca#8 = 0x01#8 := by decide

theorem witness_SboxIsAffineOfFieldInverse :
    ((0#8 : Byte) = 0#8 ∧ (0#8 : Byte) = 0#8) ∧ gfmul 0x53#8 0xca#8 = 0x01#8 := by decide

theorem witness_RconDoublesInTheField : 0 < 9 ∧ 8 < 9 := by decide

theorem witness_ByteOrderViewsAgree : isBlockList [0, 17, 34, 51, 68, 85, 102, 119, 136, 153, 170, 187, 204, 221, 238, 255] := by
  unfold isBlockList; decide

theorem witness_EveryStepKeepsTheInvariant :
    (Inv expanding ∧ ∃ t, step expanding = .next t) ∧
    Inv (ciphering .enc 10#4 plain) ∧ ∃ t, step (ciphering .enc 10#4 plain) = .next t :=
  ⟨⟨expanding_inv, _, rfl⟩, ciphering_inv _ _ _ (.inl rfl) (by decide), _, rfl⟩

theorem witness_EngineNeverFaults : Inv expanding ∧ Inv (ciphering .dec 0#4 plain) :=
  ⟨expanding_inv, ciphering_inv _ _ _ (.inr rfl) (by decide)⟩

theorem witness_OnlyReadUnwrittenDoutFaults :
    (∃ (s : State) (f : Fault), Inv s ∧ step s = .fault f ∧ s.rstN = true) ∧
    (∃ s : State, Quiet s ∧ s.job = none ∧ s.script = [.rdout] ∧ s.schedule.head? ≠ some .outside ∧
      s.doutValid = false) ∧
    Inv expanding :=
  ⟨⟨{ loadedState with err := 4#4, script := [.rdout] }, .readUnwrittenDOUT, loaded_inv _ (.inr rfl) _, rfl, rfl⟩,
   ⟨hosting [.rdout], ⟨rfl, rfl, rfl, rfl⟩, rfl, rfl, by decide, rfl⟩, expanding_inv⟩

/-- The longest way to go (KEYEXP just accepted) and the shortest. -/
theorem witness_EveryAcceptedCommandCompletes :
    (Inv expanding ∧ expanding.busy = true) ∧
    Inv (ciphering .dec 0#4 plain) ∧ (ciphering .dec 0#4 plain).busy = true :=
  ⟨⟨expanding_inv, rfl⟩, ciphering_inv _ _ _ (.inr rfl) (by decide), rfl⟩

theorem witness_UnreadRegistersAreUnobservable :
    (hideUnread State.reset = hideUnread { State.reset with st := bytes16 plain, round := 15#4, widx := 63#6 } ∧
      State.reset ≠ { State.reset with st := bytes16 plain, round := 15#4, widx := 63#6 }) ∧
    hideUnread (ciphering .enc 1#4 plain) = hideUnread { ciphering .enc 1#4 plain with widx := 63#6 } :=
  ⟨⟨rfl, fun h => absurd (congrArg State.round h) (by decide)⟩, rfl⟩

theorem witness_RoundKeysAreStableBetweenKeyexps : ∃ s t : State,
    s.rstN = true ∧ s.phase ≠ .kx ∧
    ¬ (s.cmdValid = true ∧ s.busy = false ∧ ∃ len, decode s.hasRkrd s.cmd = .ok (.keyexp len)) ∧ step s = .next t :=
  ⟨ciphering .enc 1#4 plain, _, rfl, by decide, by simp [ciphering, loadedState, State.reset], rfl⟩

theorem witness_DoutIsWrittenOnlyByResults : ∃ s t : State,
    s.rstN = true ∧ step s = .next t ∧ t.doutValid ≠ s.doutValid :=
  ⟨ciphering .enc 10#4 plain, _, rfl, rfl, by decide⟩

/-- A block in the pipeline with the next offer held, and a call whose command is running. -/
theorem witness_ResetAbandonsEverything :
    (∃ s t : State, s.rstN = false ∧ s.busy = true ∧ step s = .next t ∧ s.cmdValid = true ∧ callIssued s = false ∧
      (∀ rest, s.script ≠ .withdraw :: rest) ∧ ∀ rest, s.script ≠ .rdout :: rest) ∧
    ∃ s t : State, s.rstN = false ∧ step s = .next t ∧ callIssued s = true :=
  ⟨⟨{ ciphering .enc 5#4 plain with rstN := false, cmdValid := true }, _, rfl, rfl, rfl, rfl, rfl,
    by simp [ciphering, loadedState, State.reset], by simp [ciphering, loadedState, State.reset]⟩,
   ⟨{ ciphering .enc 5#4 plain with rstN := false, job := some ⟨.encryptBlock [] (.handle key), .running⟩ }, _, rfl, rfl,
    rfl⟩⟩

theorem witness_StatusBitsAreTheFlags : Inv { loadedState with err := 4#4, script := [] } :=
  loaded_inv _ (.inr rfl) _

/-- While a key expands with an offer held, idle, in the step that accepts an offer, and in reset. -/
theorem witness_RdstatReadsStatus :
    (∃ s : State, s.job = none ∧ s.script = [.rdstat] ∧ s.schedule = [.host] ∧ s.rstN = true ∧ s.busy = true ∧
      s.cmdValid = true) ∧
    (∃ s : State, s.job = none ∧ s.script = [.rdstat] ∧ s.schedule = [.host] ∧ s.rstN = true ∧ s.busy = false ∧
      s.cmdValid = false) ∧
    (∃ s : State, s.job = none ∧ s.script = [.rdstat] ∧ s.schedule = [.host] ∧ s.rstN = true ∧ s.busy = false ∧
      s.cmdValid = true) ∧
    ∃ s : State, s.job = none ∧ s.script = [.rdstat] ∧ s.schedule = [.host] ∧ s.rstN = false :=
  ⟨⟨{ expanding with cmdValid := true, script := [.rdstat], schedule := [.host] }, by decide⟩,
   ⟨{ hosting [.rdstat] with schedule := [.host] }, by decide⟩,
   ⟨{ hosting [.rdstat] with cmdValid := true, schedule := [.host] }, by decide⟩,
   ⟨{ hosting [.rdstat] with rstN := false, schedule := [.host] }, by decide⟩⟩

/-- While a key expands; before any result; and with a result, without and with an offer at the port. -/
theorem witness_RdoutReadsDout :
    (∃ s : State, s.rstN = true ∧ s.job = none ∧ s.script = [.rdout] ∧ s.schedule = [.host] ∧ s.busy = true) ∧
    (∃ s : State, s.rstN = true ∧ s.job = none ∧ s.script = [.rdout] ∧ s.schedule = [.host] ∧ s.busy = false ∧
      s.doutValid = false) ∧
    ∀ offered : Bool, ∃ s : State, s.rstN = true ∧ s.job = none ∧ s.script = [.rdout] ∧ s.schedule = [.host] ∧
      s.busy = false ∧ s.doutValid = true ∧ s.dout = some secret ∧ s.cmdValid = offered :=
  ⟨⟨{ expanding with script := [.rdout], schedule := [.host] }, by decide⟩,
   ⟨{ hosting [.rdout] with schedule := [.host] }, by decide⟩,
   fun offered =>
    ⟨{ hosting [.rdout] with dout := some secret, doutValid := true, cmdValid := offered, schedule := [.host] },
     rfl, rfl, rfl, rfl, rfl, rfl, rfl, rfl⟩⟩

/-- A host at rest about to make a call. -/
theorem calling_of_hosting (c : AdapterCall) : Calling c [] (hosting [.call c]) :=
  ⟨⟨rfl, rfl, rfl, rfl⟩, rfl, rfl, rfl⟩

theorem witness_ExpandKeyReturnsTheRoundKeys : ∃ (s : State) (xs : List Int), Calling (.expandKey xs) [] s ∧ isBlockList xs :=
  ⟨_, List.replicate 16 255, calling_of_hosting _, by unfold isBlockList; decide⟩

/-- A handle, with a tag that names no key; and the eleven round keys of R150, with the tag of their key. -/
theorem witness_BlockCallsReturnTheCipher :
    isBlockList (List.replicate 16 0) ∧
    (∃ s : State, Calling (.encryptBlock (List.replicate 16 0) (.handle key)) [] s ∧
      keyOfRoundKeys (.handle key) = some key ∧ s.loaded ≠ some key) ∧
    (∃ s : State, Calling (.decryptBlock (List.replicate 16 0) (.handle key)) [] s ∧
      s.loaded = some key ∧ s.keyValid = true ∧ ∀ i, i < 44 → rkWord s i = keyWord key i) ∧
    keyOfRoundKeys (.keys ((List.range 11).map (roundKey (keyWord key)))) = some key :=
  ⟨by unfold isBlockList; decide,
   ⟨_, calling_of_hosting _, rfl, by decide⟩,
   ⟨{ loadedState with loaded := some key, script := [.call _] }, ⟨⟨rfl, rfl, rfl, rfl⟩, rfl, rfl, rfl⟩, rfl, rfl,
    fun _ h => loadedState_word h⟩,
   by decide +kernel⟩

theorem witness_WrongLengthCallsReturnTheLengthError : ∀ n ∈ [0, 15, 17, 40],
    ∀ c ∈ [AdapterCall.expandKey (List.replicate n 7), .encryptBlock (List.replicate n 7) (.handle key),
        .decryptBlock (List.replicate n 7) (.keys [])],
      (∃ s : State, Calling c [] s) ∧ (∀ x ∈ callBytes c, 0 ≤ x ∧ x ≤ 255) ∧ (callBytes c).length ≠ 16 := by
  intro n hn c hc
  refine ⟨⟨_, calling_of_hosting c⟩, ?_⟩
  revert n hn c hc
  decide

theorem witness_InstancesShareNothing : ∃ es' : Instances,
    stepInstance 1 [State.reset, expanding] = .next es' ∧ (0 ≠ 1) ∧ [State.reset, expanding][1]? = some expanding :=
  ⟨_, rfl, by decide, rfl⟩

theorem witness_LatencyDependsOnTheCommandAlone :
    acceptError (.enc 16#5) State.reset ≠ none ∧ acceptError (.keyexp 16#5) State.reset = none ∧
    acceptError (.keyexp 16#5) loadedState = none ∧ ∀ r, Instr.keyexp 16#5 ≠ .rkrd r :=
  ⟨by decide, by decide, by decide, by simp⟩

end Sys2Proof.Tests
end

section
/-!
PROOFS. What one step can be, seen from the engine's registers: reset values, an acceptance, a micro-step, or nothing.
-/

namespace Sys2Proof.Machine

theorem SameEngine.refl (s : State) : SameEngine s s := by constructor <;> rfl

theorem takeOffer_sameEngine (s : State) : SameEngine s (takeOffer s) := by constructor <;> rfl

/-- rst_n = 0 puts every register of the engine at its value of R39 (R291). -/
theorem holdInReset_sameEngine (s : State) : SameEngine State.reset (holdInReset s) := by constructor <;> rfl

/-- The engine's side of one step. An acceptance sees the registers of `s` and the word on its port (R71, R220); in every
other step with reset released the registers move by a micro-step or stay (R190, R279). -/
inductive EngineCase (s t : State) : Prop where
  | reset (hn : s.rstN = false) (e : SameEngine State.reset t)
  | illegal (hn : s.rstN = true) (hv : s.cmdValid = true) (hb : s.busy = false) (w : Illegal)
      (hd : decode s.hasRkrd s.cmd = .error w) (u : State) (e : SameEngine s u)
      (ht : t = { u with err := errCode .illegalCommand })
  | command (hn : s.rstN = true) (hv : s.cmdValid = true) (hb : s.busy = false) (i : Instr)
      (hd : decode s.hasRkrd s.cmd = .ok i) (u : State) (e : SameEngine s u) (c : ExecCase i u t)
  | micro (hn : s.rstN = true) (hp : s.phase ≠ .idle) (u : State) (e : SameEngine s u) (c : MicroCase u t)
  | still (hn : s.rstN = true) (e : SameEngine s t)

/-- An agent other than the engine changes no register of the engine. -/
theorem agentStep_eq_next {turn : Option Agent} {s t : State} (h : agentStep (chooseAgent turn s) s = .next t) :
    (s.phase ≠ .idle ∧ microStep s = .next t) ∨ SameEngine s t := by
  revert h
  refine agentStep_cases (P := fun o => o = .next t → _) ?engine ?host ?outside ?idle
  case engine => exact fun hp h => .inl ⟨hp, h⟩
  case host => exact fun _ h => .inr (hostStep_sameEngine h)
  case outside => rintro ⟨⟩; exact .inr (outsideStep_sameEngine s)
  case idle => rintro ⟨⟩; exact .inr (.refl s)

/-- Every step that answers a next state is one of those cases. -/
theorem step_eq_next {s t : State} (h : step s = .next t) : EngineCase s t := by
  have turn := nextTurn_sameEngine s
  rcases step_shape s with ⟨hn, hv, hb, hs⟩ | ⟨hn, -, hs⟩ | ⟨hn, hs⟩ <;> rw [hs] at h
  · obtain ⟨u, hu, ha⟩ := bindNext_eq_next.1 h
    obtain ⟨e, -, -, hcmd, -, hrkrd⟩ := hostLook_eq_next hu
    have seen : SameEngine s (takeOffer u) := (turn.trans e).trans (takeOffer_sameEngine u)
    rcases accept_eq_next ha with ⟨w, hd, rfl⟩ | ⟨i, hd, c⟩ <;>
      rw [hcmd, hrkrd, nextTurn_cmd, nextTurn_hasRkrd] at hd
    · exact .illegal hn hv hb w hd _ seen rfl
    · exact .command hn hv hb i hd _ seen c
  · rcases agentStep_eq_next h with ⟨hp, hm⟩ | e
    · exact .micro hn hp _ turn (microStep_eq_next hm)
    · exact .still hn (turn.trans e)
  · rcases agentStep_eq_next h with ⟨hp, -⟩ | e
    · exact absurd rfl hp
    · exact .reset hn ((holdInReset_sameEngine _).trans e)

end Sys2Proof.Machine
end

section
/-!
PROOFS. The invariant holds after reset and every step keeps it.
-/

namespace Sys2Proof.Machine

/-- No RK word is written after reset (R38, R39). -/
theorem not_rkWritten_reset (i : Nat) : ¬ rkWritten State.reset i := by
  rintro ⟨w, hw⟩
  by_cases hi : i < 44 <;> simp [State.reset, hi] at hw

/-- With PHASE IDLE and KEY_VALID 0 the invariant asks nothing of RK, ROUND and WIDX. -/
theorem reset_inv : Inv State.reset where
  control := ⟨by decide, nofun, nofun, nofun, nofun, .inl rfl, rfl⟩
  keyStore := ⟨nofun, nofun, nofun, nofun⟩

/-- A word that follows the recurrence joins the words below it. -/
theorem rkExpandedBelow_deriveWord {s : State} (lo : 4 ≤ s.widx.toNat) (hi : s.widx.toNat < 44)
    (h : rkExpandedBelow s s.widx.toNat) : rkExpandedBelow (deriveWord (kxWord s) s) (s.widx.toNat + 1) := by
  intro i hlt
  have other {j : Nat} (hj : j < s.widx.toNat) : rkWord (deriveWord (kxWord s) s) j = rkWord s j :=
    rkWord_deriveWord_other hj.ne _
  rw [other (j := i) (by omega), other (j := i + 3) (by omega)]
  by_cases hw : i + 4 = s.widx.toNat
  · rw [hw, rkWord_deriveWord_same hi, kxWord, show s.widx.toNat - 4 = i by omega,
      show s.widx.toNat - 1 = i + 3 by omega]
  · rw [other (by omega)]
    exact h i (by omega)

/-- With the word KX_STEP writes, one word more is written (R38). -/
theorem rkWritten_deriveWord_below {s : State} (hi : s.widx.toNat < 44) (w : Word)
    (h : ∀ i, i < s.widx.toNat → rkWritten s i) (i : Nat) (hlt : i < s.widx.toNat + 1) :
    rkWritten (deriveWord w s) i := by
  by_cases hw : i = s.widx.toNat
  · exact hw ▸ rkWritten_deriveWord_same hi w
  · exact rkWritten_deriveWord hi w (h i (by omega))

/-- The store keeps its part of the invariant where no key is being expanded and RK and KEY_VALID stay. -/
theorem KeyStoreInv.of_not_kx {s t : State} (h : KeyStoreInv s) (hrk : t.rk = s.rk) (hkv : t.keyValid = s.keyValid)
    (hp : t.phase ≠ .kx) : KeyStoreInv t where
  valid_written hv i hi := (rkWritten_congr hrk i).2 (h.valid_written (hkv ▸ hv) i hi)
  valid_expanded hv := (rkExpandedBelow_congr hrk 44).2 (h.valid_expanded (hkv ▸ hv))
  partial_written hk := absurd hk hp
  partial_expanded hk := absurd hk hp

/-- ByteRangeError is the adapter's: no acceptance raises it (R264). -/
theorem acceptError_ne_byteRange {i : Instr} {s : State} {e : ErrKind} (h : acceptError i s = some e) :
    e ≠ .byteRange := by
  rintro rfl
  have request : requestError s.hasRkrd i ≠ some .byteRange := by cases i <;> simp [requestError]
  unfold acceptError at h
  split at h
  next e he => exact request (he.trans h)
  next => simp at h

/-- An error the engine raises writes a code of R261 and nothing else (R16). -/
theorem raise_inv {s : State} (h : Inv s) {e : ErrKind} (he : e ≠ .byteRange) : Inv { s with err := errCode e } where
  control := { h.control with err_code := by cases e <;> simp_all [errCode] }
  keyStore := { h.keyStore with }

/-- The acceptance of KEYEXP: the four words of the key are written and none is derived yet (R222). -/
theorem startKeyExpansion_inv {s : State} (h : Inv s) : Inv (startKeyExpansion s) where
  control := {
    busy_iff := by simp
    widx_range := by simp
    key_window := by simp
    round_range := by simp
    cipher_key := by simp
    err_code := by simpa using h.control.err_code
    dout_valid := by simpa using h.control.dout_valid }
  keyStore := {
    valid_written := by simp
    valid_expanded := by simp
    partial_written := fun _ i hi =>
      (rkWritten_congr (startKeyExpansion_rk s) i).2 (rkWritten_storeKey _ s (by simpa using hi))
    partial_expanded := fun _ i hi => absurd hi (by simp) }

/-- The acceptance of ENC and DEC with a key loaded (R224, R225). -/
theorem startCipher_inv {s : State} (h : Inv s) (hk : s.keyValid = true) {p : Phase} (hidle : p ≠ .idle) (hkx : p ≠ .kx)
    {r : BitVec 4} (hr : r.toNat ≤ 10) : Inv (startCipher p r s) where
  control := { h.control with
    busy_iff := by simp [hidle]
    widx_range := (absurd · hkx)
    key_window := (absurd · hkx)
    round_range := fun _ => hr
    cipher_key := fun _ => hk }
  keyStore := h.keyStore.of_not_kx rfl rfl hkx

/-- A round inside ENC or DEC (R193, R194, R196, R197). -/
theorem nextRound_inv {s : State} (h : Inv s) (hp : s.phase = .enc ∨ s.phase = .dec) (b : Block) {r : BitVec 4}
    (hr : r.toNat ≤ 10) : Inv (nextRound b r s) where
  control := { h.control with round_range := fun _ => hr }
  keyStore := h.keyStore.of_not_kx rfl rfl (by rcases hp with hp | hp <;> simp [hp])

/-- The completion of a command that writes DOUT and leaves RK: the last micro-step of ENC and DEC, and RKRD (R195, R198,
R226). -/
theorem complete_writeDout_inv {s : State} (h : Inv s) (v : Quad) (b : Block) :
    Inv (complete (writeDout v { s with st := b })) where
  control := ⟨by simp, by simp, by simp, by simp, by simp, .inl rfl, rfl⟩
  keyStore := h.keyStore.of_not_kx rfl rfl (by simp)

/-- KX_STEP short of the last word (R147). -/
theorem deriveWord_inv {s : State} (h : Inv s) (hp : s.phase = .kx) (lo : 4 ≤ s.widx.toNat) (hi : s.widx.toNat < 43) :
    Inv (deriveWord (kxWord s) s) := by
  have next : (s.widx + 1#6).toNat = s.widx.toNat + 1 := widx_succ hi.le
  have hkv : s.keyValid = false := h.control.key_window hp
  refine ⟨{ h.control with widx_range := fun _ => ?_ }, ⟨by simp [hkv], by simp [hkv], fun _ => ?_, fun _ => ?_⟩⟩ <;>
    rw [deriveWord_widx, next]
  · omega
  · exact rkWritten_deriveWord_below (by omega) _ (h.keyStore.partial_written hp)
  · exact rkExpandedBelow_deriveWord lo (by omega) (h.keyStore.partial_expanded hp)

/-- KX_DONE: with the last word derived the store is a whole expansion (R148). -/
theorem finishExpansion_inv {s : State} (h : Inv s) (hp : s.phase = .kx) (hw : s.widx.toNat = 43) :
    Inv (finishExpansion (deriveWord (kxWord s) s)) where
  control := { h.control with
    busy_iff := by simp
    widx_range := by simp
    key_window := by simp
    round_range := by simp
    cipher_key := by simp
    err_code := .inl rfl }
  keyStore := {
    valid_written := fun _ i hi => rkWritten_deriveWord_below (by omega) _ (h.keyStore.partial_written hp) i (by omega)
    valid_expanded := fun _ => by
      have := rkExpandedBelow_deriveWord (by omega) (by omega) (h.keyStore.partial_expanded hp)
      rwa [hw] at this
    partial_written := by simp
    partial_expanded := by simp }

/-- The acceptance of a command keeps the invariant. -/
theorem ExecCase.inv {i : Instr} {s t : State} (c : ExecCase i s t) (h : Inv s) : Inv t := by
  cases c with
  | error e he => exact raise_inv h (acceptError_ne_byteRange he)
  | keyexp => exact startKeyExpansion_inv h
  | enc _ hk => exact startCipher_inv h hk (by decide) (by decide) (by decide)
  | dec _ hk => exact startCipher_inv h hk (by decide) (by decide) (by decide)
  | rkrd r => exact complete_writeDout_inv h _ s.st

/-- A micro-step keeps the invariant. -/
theorem MicroCase.inv {s t : State} (c : MicroCase s t) (h : Inv s) : Inv t := by
  cases c with
  | idle => exact h
  | kx hp lo hi => exact deriveWord_inv h hp lo hi
  | kxDone hp hw => exact finishExpansion_inv h hp hw
  | encFirst hp => exact nextRound_inv h (.inl hp) _ (by decide)
  | encRound hp lo hi => exact nextRound_inv h (.inl hp) _ (by rw [round_succ hi]; omega)
  | encLast => exact complete_writeDout_inv h _ _
  | decFirst hp => exact nextRound_inv h (.inr hp) _ (by decide)
  | decRound hp lo hi => exact nextRound_inv h (.inr hp) _ (by rw [round_pred lo]; omega)
  | decLast => exact complete_writeDout_inv h _ _

end Sys2Proof.Machine

open Sys2Proof Sys2Proof.Machine

/-- Settles O35: RK by `not_rkWritten_reset`, the registers and flags by evaluation. -/
theorem resetLeavesTheSpecsValues : Obligations.ResetLeavesTheSpecsValues :=
  ⟨rfl, rfl, rfl, rfl, rfl, rfl, not_rkWritten_reset, rfl, rfl, rfl⟩

/-- Settles O36, by `reset_inv`. -/
theorem resetMeetsTheInvariant : Obligations.ResetMeetsTheInvariant := reset_inv

/-- Settles O37, by the engine's side of the step. -/
theorem everyStepKeepsTheInvariant : Obligations.EveryStepKeepsTheInvariant := by
  intro s t h hs
  cases step_eq_next hs with
  | reset _ e => exact reset_inv.congr e
  | illegal _ _ _ _ _ u e ht => exact ht ▸ raise_inv (h.congr e) nofun
  | command _ _ _ _ _ u e c => exact c.inv (h.congr e)
  | micro _ _ u e c => exact c.inv (h.congr e)
  | still _ e => exact h.congr e

end

section
/-!
PROOFS. What an acceptance and a micro-step do to ERR and DOUT, and from that when a step writes them.
-/

namespace Sys2Proof.Machine

/-- An illegal word raises IllegalCommand (R227). -/
theorem accept_of_illegal {s : State} {w : Illegal} (h : decode s.hasRkrd s.cmd = .error w) :
    accept s = .next { takeOffer s with err := errCode .illegalCommand } := by
  simp only [accept, h, raise_eq]

/-- An acceptance that R267 finds in error raises that error and nothing else (R16). -/
theorem exec_of_acceptError {i : Instr} {s : State} {e : ErrKind} (h : acceptError i s = some e) :
    exec i s = .next { s with err := errCode e } := by
  obtain ⟨t, ht, c⟩ := exec_cases i s
  rw [ht]
  cases c with
  | error e' he' => rw [Option.some.inj (h.symm.trans he')]
  | keyexp hi => subst hi; simp [acceptError, requestError, lenIs16, needsKey] at h
  | enc hi hk => subst hi; simp [acceptError, requestError, lenIs16, needsKey, hk] at h
  | dec hi hk => subst hi; simp [acceptError, requestError, lenIs16, needsKey, hk] at h
  | rkrd r hi hr hh hk => subst hi; simp [acceptError, requestError, ridxInRange, needsKey, hr, hh, hk] at h

/-- ENC with LEN = 16 and a key loaded starts the pipeline at round 0 (R224). -/
theorem exec_enc_16 {s : State} (hk : s.keyValid = true) : exec (.enc 16#5) s = .next (startCipher .enc 0#4 s) := by
  simp [exec, execEnc, lenIs16, hk]

/-- DEC with LEN = 16 and a key loaded starts the pipeline at round 10 (R225). -/
theorem exec_dec_16 {s : State} (hk : s.keyValid = true) : exec (.dec 16#5) s = .next (startCipher .dec 10#4 s) := by
  simp [exec, execDec, lenIs16, hk]

/-- RKRD with RIDX at most 10 and a key loaded puts the round key into DOUT and completes (R226). -/
theorem exec_rkrd_in_range {s : State} {r : BitVec 5} (hr : r.toNat ≤ 10) (hh : s.hasRkrd = true)
    (hk : s.keyValid = true) :
    exec (.rkrd r) s = .next (complete (writeDout (roundKey (rkWord s) r.toNat) s)) := by
  simp [exec, execRkrd, ridxInRange, hr, hh, hk]

/-- ERR after an acceptance: the error's code, 0 from RKRD, which completes at once, or untouched by a command that starts
(R31). -/
theorem ExecCase.err {i : Instr} {s t : State} (c : ExecCase i s t) :
    (∃ e, acceptError i s = some e ∧ t.busy = s.busy ∧ t.err = errCode e) ∨ (t.busy = true ∧ t.err = s.err) ∨
    (t.busy = false ∧ t.err = 0#4 ∧ ∃ r, i = .rkrd r) := by
  cases c with
  | error e he => exact .inl ⟨e, he, rfl, rfl⟩
  | keyexp | enc | dec => exact .inr (.inl (by simp))
  | rkrd r hi => exact .inr (.inr ⟨rfl, rfl, r, hi⟩)

/-- ERR after a micro-step: untouched while the command goes on, 0 when it completes (R31). -/
theorem MicroCase.err {s t : State} (c : MicroCase s t) (hp : s.phase ≠ .idle) :
    (t.phase = s.phase ∧ t.busy = s.busy ∧ t.err = s.err) ∨ (t.phase = .idle ∧ t.busy = false ∧ t.err = 0#4) := by
  cases c with
  | idle hi => exact absurd hi hp
  | kx | encFirst | encRound | decFirst | decRound => exact .inl ⟨rfl, rfl, rfl⟩
  | kxDone | encLast | decLast => exact .inr ⟨rfl, rfl, rfl⟩

/-- Only RKRD's acceptance writes DOUT (R27). -/
theorem ExecCase.dout {i : Instr} {s t : State} (c : ExecCase i s t) :
    (t.dout = s.dout ∧ t.doutValid = s.doutValid) ∨ (t.doutValid = true ∧ ∃ r, i = .rkrd r) := by
  cases c with
  | error | keyexp | enc | dec => exact .inl (by simp)
  | rkrd r hi => exact .inr ⟨rfl, r, hi⟩

/-- Only the last micro-step of ENC or DEC writes DOUT (R27). -/
theorem MicroCase.dout {s t : State} (c : MicroCase s t) :
    (t.dout = s.dout ∧ t.doutValid = s.doutValid) ∨
    (t.doutValid = true ∧ ((s.phase = .enc ∧ s.round = 10#4) ∨ (s.phase = .dec ∧ s.round = 0#4))) := by
  cases c with
  | idle | kx | kxDone | encFirst | encRound | decFirst | decRound => exact .inl ⟨rfl, rfl⟩
  | encLast hp hr => exact .inr ⟨rfl, .inl ⟨hp, BitVec.eq_of_toNat_eq hr⟩⟩
  | decLast hp hr => exact .inr ⟨rfl, .inr ⟨hp, BitVec.eq_of_toNat_eq hr⟩⟩

/-- With reset released ERR changes only by a completion: of a running command, with 0, or at an acceptance that leaves the
engine idle (R31). -/
theorem err_changes_by_completion {s t : State} (h : Inv s) (hn : s.rstN = true) (hs : step s = .next t) :
    t.err = s.err ∨ (s.busy = true ∧ t.busy = false ∧ t.err = 0#4) ∨
      (s.busy = false ∧ s.cmdValid = true ∧ t.busy = false) := by
  cases step_eq_next hs with
  | reset hr => simp [hn] at hr
  | illegal _ hv hb _ _ u e ht => exact .inr (.inr ⟨hb, hv, ht ▸ e.busy.trans hb⟩)
  | command _ hv hb i _ u e c =>
    rcases c.err with ⟨_, _, hub, _⟩ | ⟨_, hue⟩ | ⟨htb, _⟩
    · exact .inr (.inr ⟨hb, hv, hub.trans (e.busy.trans hb)⟩)
    · exact .inl (hue.trans e.err)
    · exact .inr (.inr ⟨hb, hv, htb⟩)
  | micro _ hp u e c =>
    rcases c.err (e.phase ▸ hp) with ⟨_, _, hue⟩ | ⟨_, htb, hte⟩
    · exact .inl (hue.trans e.err)
    · exact .inr (.inl ⟨h.control.busy_iff.2 hp, htb, hte⟩)
  | still _ e => exact .inl e.err

end Sys2Proof.Machine

open Sys2Proof Sys2Proof.Machine

/-- Settles O15: the acceptance, the micro-step and the whole step, each by its cases. -/
theorem errIsTheLastOutcome : Obligations.ErrIsTheLastOutcome := by
  refine ⟨fun s w hd => ?_, fun s i e he => ⟨_, exec_of_acceptError he, rfl⟩, fun s t i he hx => ?_,
    fun s t hp hm => (microStep_eq_next hm).err hp, fun s t h hn hs => err_changes_by_completion h hn hs⟩
  · exact ⟨_, accept_of_illegal hd, rfl⟩
  · rcases (exec_eq_next hx).err with ⟨e, he', _⟩ | running | completed
    · simp [he] at he'
    · exact .inl running
    · exact .inr completed

/-- Settles O43, by the cases of the step. -/
theorem doutIsWrittenOnlyByResults : Obligations.DoutIsWrittenOnlyByResults := by
  intro s t hn hs
  cases step_eq_next hs with
  | reset hr => simp [hn] at hr
  | illegal _ _ _ _ _ u e ht => exact .inl (ht ▸ ⟨e.dout, e.doutValid⟩)
  | command _ hv hb i hd u e c =>
    rcases c.dout with ⟨hdo, hdv⟩ | ⟨hdv, r, rfl⟩
    · exact .inl ⟨hdo.trans e.dout, hdv.trans e.doutValid⟩
    · exact .inr ⟨hdv, .inr (.inr ⟨hv, hb, r, hd⟩)⟩
  | micro _ _ u e c =>
    rcases c.dout with ⟨hdo, hdv⟩ | ⟨hdv, last⟩
    · exact .inl ⟨hdo.trans e.dout, hdv.trans e.doutValid⟩
    · rw [e.phase, e.round] at last
      exact .inr ⟨hdv, last.imp_right .inl⟩
  | still _ e => exact .inl ⟨e.dout, e.doutValid⟩

end

section
/-!
PROOFS. The bits of STATUS, and several instances.
-/

namespace Sys2Proof.Machine

/-- STATUS bit by bit (R30). -/
theorem status_getLsbD (s : State) (i : Nat) : (status s).getLsbD i =
    match i with
    | 0 => s.busy
    | 1 => s.keyValid
    | 2 => s.doutValid
    | 3 => false
    | i + 4 => s.err.getLsbD i := by
  have fields : (status s).getLsbD i = (s.err ++ 0#1 ++ BitVec.ofBool s.doutValid ++ BitVec.ofBool s.keyValid ++
    BitVec.ofBool s.busy).getLsbD i := rfl
  rw [fields]
  repeat rw [BitVec.getLsbD_append]
  rcases i with _ | _ | _ | _ | i <;> simp

/-- The field ERR of STATUS (R30). -/
theorem status_err (s : State) : (status s).extractLsb' 4 4 = s.err := by
  ext i hi
  rw [BitVec.getElem_extractLsb', Nat.add_comm]
  exact status_getLsbD s (i + 4)

/-- The field ERR as a number. -/
theorem status_div_16 (s : State) : (status s).toNat / 16 = s.err.toNat := by
  have := (status s).isLt
  rw [← status_err, BitVec.extractLsb'_toNat, Nat.shiftRight_eq_div_pow]
  omega

end Sys2Proof.Machine

open Sys2Proof Sys2Proof.Machine

/-- Settles O45: bit by bit, and the field ERR by the invariant. -/
theorem statusBitsAreTheFlags : Obligations.StatusBitsAreTheFlags := by
  intro s
  refine ⟨status_getLsbD s 0, status_getLsbD s 1, status_getLsbD s 2, status_getLsbD s 3, status_err s, fun h => ?_⟩
  rw [status_div_16]
  rcases h.control.err_code with he | he | he | he | he <;> simp [he]

/-- Settles O51: the step replaces one place of the list. -/
theorem instancesShareNothing : Obligations.InstancesShareNothing := by
  intro es es' k h
  unfold stepInstance at h
  split at h
  next e hk =>
    obtain ⟨e', he, rfl⟩ := mapNext_eq_next.1 h
    obtain ⟨hlt, -⟩ := List.getElem?_eq_some_iff.1 hk
    refine ⟨List.length_set, fun j hj => List.getElem?_set_ne hj.symm, fun d hd => ?_⟩
    obtain rfl : e = d := Option.some.inj (hk.symm.trans hd)
    exact ⟨e', he, List.getElem?_set_self hlt⟩
  next hk =>
    cases h
    exact ⟨rfl, fun _ _ => rfl, by simp [hk]⟩
end

section
/-!
PROOFS. Registers no rule reads have no effect (R22, R28, R29): giving STATE, ROUND and WIDX other values where their phase
does not read them changes no outcome but these registers.
-/

namespace Sys2Proof.Machine

/-- The state with other values in STATE, ROUND and WIDX. -/
@[simps rstN cmd keyValid busy phase doutValid err round widx hasRkrd loaded script job resetPlan schedule]
def withUnread (b : Block) (r : BitVec 4) (w : BitVec 6) (s : State) : State :=
  { s with st := b, round := r, widx := w }

/-- `b`, `r` and `w` differ from STATE, ROUND and WIDX only where no rule reads these registers. -/
structure UnreadOnly (b : Block) (r : BitVec 4) (w : BitVec 6) (s : State) : Prop where
  cipher : s.phase = .enc ∨ s.phase = .dec → b = s.st ∧ r = s.round
  kx : s.phase = .kx → w = s.widx

theorem UnreadOnly.congr {b : Block} {r : BitVec 4} {w : BitVec 6} {s t : State} (h : UnreadOnly b r w s)
    (e : SameEngine s t) : UnreadOnly b r w t := by
  obtain ⟨hc, hk⟩ := h
  constructor <;> simpa only [e.st, e.round, e.widx, e.phase]

/-- `hideUnread` sets unread registers alone. -/
theorem hideUnread_eq (s : State) : ∃ b r w, hideUnread s = withUnread b r w s ∧ UnreadOnly b r w s := by
  cases hp : s.phase with
  | idle => exact ⟨Block.zero, 0#4, 0#6, by simp only [hideUnread, withUnread, hp], by simp [hp], by simp [hp]⟩
  | kx => exact ⟨Block.zero, 0#4, s.widx, by simp only [hideUnread, withUnread, hp], by simp [hp], by simp⟩
  | enc | dec => exact ⟨s.st, s.round, 0#6, by simp only [hideUnread, withUnread, hp], by simp, by simp [hp]⟩

variable {b : Block} {r : BitVec 4} {w : BitVec 6} {s : State}

/-- `hideUnread` clears whatever stands in the unread registers. -/
theorem hideUnread_withUnread (h : UnreadOnly b r w s) : hideUnread (withUnread b r w s) = hideUnread s := by
  obtain ⟨hc, hk⟩ := h
  cases hp : s.phase with
  | idle => simp only [hideUnread, withUnread, hp]
  | kx => simp only [hideUnread, withUnread, hp, hk hp]
  | enc => simp only [hideUnread, withUnread, hp, hc (.inl hp)]
  | dec => simp only [hideUnread, withUnread, hp, hc (.inr hp)]

/-- A read of DOUT sees none of the three registers (log 7). -/
theorem readDout_withUnread : readDout (withUnread b r w s) =
    mapNext (fun p => (withUnread b r w p.1, p.2)) (readDout s) := by
  unfold readDout
  simp only [withUnread_busy, withUnread_doutValid]
  split
  · rfl
  · split <;> rfl

/-- An action of the adapter sees none of them. -/
theorem jobStep_withUnread (j : Job) : jobStep j (withUnread b r w s) = mapNext (withUnread b r w) (jobStep j s) := by
  obtain ⟨c, g⟩ := j
  cases g with
  | start =>
    simp only [jobStep, startCall, withUnread_loaded]
    repeat' split
    all_goals rfl
  | loading k => rfl
  | running =>
    simp only [jobStep, commandDone, withUnread_err, withUnread_hasRkrd, readDout_withUnread]
    split
    · rfl
    · split
      · cases readDout s <;> rfl
      · split <;> rfl
  | reading n got =>
    simp only [jobStep, roundKeyDone, readDout_withUnread]
    cases readDout s with
    | next p =>
      simp only [mapNext_next]
      split <;> rfl
    | fault | refused => rfl

/-- Nor does a line of the host. -/
theorem hostLine_withUnread (l : HostLine) :
    hostLine l (withUnread b r w s) = mapNext (withUnread b r w) (hostLine l s) := by
  cases l with
  | rdout =>
    simp only [hostLine, rdout, readDout_withUnread]
    cases readDout s <;> rfl
  | offer | hold | withdraw | wait | rdstat | call => rfl

/-- Nor does a step of the host. -/
theorem hostStep_withUnread : hostStep (withUnread b r w s) = mapNext (withUnread b r w) (hostStep s) := by
  unfold hostStep
  simp only [withUnread_job, withUnread_script]
  split
  · exact jobStep_withUnread _
  · split
    · rfl
    next rest _ => exact hostLine_withUnread (s := { s with script := rest }) _

/-- Nor does the outside. -/
theorem outsideStep_withUnread : outsideStep (withUnread b r w s) = withUnread b r w (outsideStep s) := by
  unfold outsideStep
  simp only [withUnread_resetPlan]
  split <;> rfl

/-- Who goes does not depend on them. -/
theorem chooseAgent_withUnread (turn : Option Agent) : chooseAgent turn (withUnread b r w s) = chooseAgent turn s := rfl

/-- Reset sets them (R291). -/
theorem holdInReset_withUnread : holdInReset (withUnread b r w s) = holdInReset s := by
  unfold holdInReset abandonCall
  have same : callIssued (withUnread b r w s) = callIssued s := rfl
  rw [same]
  split <;> rfl

/-- Next states that differ in unread registers alone are the same up to these registers. -/
theorem next_withUnread (h : UnreadOnly b r w s) :
    mapNext hideUnread (.next (withUnread b r w s) : Result) = mapNext hideUnread (.next s) :=
  congrArg Host.Outcome.next (hideUnread_withUnread h)

/-- An operation that leaves the registers of the engine leaves what is unread. -/
theorem mapNext_hideUnread_withUnread {o : Result} (h : ∀ t, o = .next t → UnreadOnly b r w t) :
    mapNext hideUnread (mapNext (withUnread b r w) o) = mapNext hideUnread o := by
  cases o with
  | next t => exact next_withUnread (h t rfl)
  | fault | refused => rfl

/-- A round gives STATE and ROUND new values (R193, R194, R196, R197). -/
theorem nextRound_withUnread (hp : s.phase = .enc ∨ s.phase = .dec) (b' : Block) (r' : BitVec 4) :
    mapNext hideUnread (.next (nextRound b' r' (withUnread b r w s)) : Result) =
      mapNext hideUnread (.next (nextRound b' r' s)) :=
  next_withUnread (b := b') (r := r') (s := nextRound b' r' s)
    ⟨fun _ => ⟨rfl, rfl⟩, fun hk => by rcases hp with hp | hp <;> simp [hp] at hk⟩

/-- A micro-step reads STATE and ROUND in ENC and DEC alone, and WIDX in KX alone. -/
theorem microStep_withUnread (h : UnreadOnly b r w s) :
    mapNext hideUnread (microStep (withUnread b r w s)) = mapNext hideUnread (microStep s) := by
  unfold microStep
  simp only [withUnread_phase]
  split
  next hp => exact next_withUnread h
  next hp =>
    obtain rfl := h.kx hp
    simp only [kxStep, withUnread_widx]
    split
    · split
      · rfl
      · exact next_withUnread (s := deriveWord _ s) ⟨by simp [hp], fun _ => rfl⟩
    · rfl
  next hp =>
    obtain ⟨rfl, rfl⟩ := h.cipher (.inl hp)
    simp only [encStep, withUnread_round]
    split
    · exact nextRound_withUnread (.inl hp) _ _
    · split
      · exact nextRound_withUnread (.inl hp) _ _
      · split <;> rfl
  next hp =>
    obtain ⟨rfl, rfl⟩ := h.cipher (.inr hp)
    simp only [decStep, withUnread_round]
    split
    · exact nextRound_withUnread (.inr hp) _ _
    · split
      · rfl
      · split
        · exact nextRound_withUnread (.inr hp) _ _
        · rfl

/-- An error leaves PHASE, so it leaves what is unread (R16). -/
theorem raise_withUnread (h : UnreadOnly b r w s) (e : ErrKind) :
    mapNext hideUnread (raise e (withUnread b r w s)) = mapNext hideUnread (raise e s) :=
  next_withUnread (s := { s with err := errCode e }) ⟨h.cipher, h.kx⟩

/-- KEYEXP gives WIDX its first value (R222). -/
theorem startKeyExpansion_withUnread :
    mapNext hideUnread (.next (startKeyExpansion (withUnread b r w s)) : Result) =
      mapNext hideUnread (.next (startKeyExpansion s)) :=
  next_withUnread (b := b) (r := r) (w := 4#6) (s := startKeyExpansion s) ⟨by simp, fun _ => rfl⟩

/-- ENC and DEC give STATE and ROUND their first values (R224, R225). -/
theorem startCipher_withUnread {p : Phase} (hp : p ≠ .kx) (r' : BitVec 4) :
    mapNext hideUnread (.next (startCipher p r' (withUnread b r w s)) : Result) =
      mapNext hideUnread (.next (startCipher p r' s)) :=
  next_withUnread (b := operandBlock s) (r := r') (s := startCipher p r' s) ⟨fun _ => ⟨rfl, rfl⟩, (absurd · hp)⟩

/-- No command reads STATE, ROUND or WIDX at its acceptance. -/
theorem exec_withUnread (h : UnreadOnly b r w s) (i : Instr) :
    mapNext hideUnread (exec i (withUnread b r w s)) = mapNext hideUnread (exec i s) := by
  obtain ⟨t, ht, c⟩ := exec_cases i s
  rw [ht]
  cases c with
  | error e he =>
    have he' : acceptError i (withUnread b r w s) = some e := he
    rw [exec_of_acceptError he']
    exact raise_withUnread h e
  | keyexp hi =>
    rw [hi, exec_keyexp_16]
    exact startKeyExpansion_withUnread
  | enc hi hk =>
    rw [hi, exec_enc_16 (s := withUnread b r w s) hk]
    exact startCipher_withUnread (by decide) _
  | dec hi hk =>
    rw [hi, exec_dec_16 (s := withUnread b r w s) hk]
    exact startCipher_withUnread (by decide) _
  | rkrd ridx hi hr hh hk =>
    rw [hi, exec_rkrd_in_range (s := withUnread b r w s) hr hh hk]
    rfl

/-- Nor does the acceptance of a word, legal or not. -/
theorem accept_withUnread (h : UnreadOnly b r w s) :
    mapNext hideUnread (accept (withUnread b r w s)) = mapNext hideUnread (accept s) := by
  have h' : UnreadOnly b r w (takeOffer s) := h.congr (takeOffer_sameEngine s)
  unfold accept
  simp only [withUnread_hasRkrd, withUnread_cmd]
  split
  · exact exec_withUnread h' _
  · exact raise_withUnread h' _

/-- No agent's step depends on the unread registers. -/
theorem agentStep_withUnread (h : UnreadOnly b r w s) (a : Option Agent) :
    mapNext hideUnread (agentStep a (withUnread b r w s)) = mapNext hideUnread (agentStep a s) := by
  match a with
  | none => exact next_withUnread h
  | some .engine => exact microStep_withUnread h
  | some .host =>
    simp only [agentStep, hostStep_withUnread]
    exact mapNext_hideUnread_withUnread fun t ht => h.congr (hostStep_sameEngine ht)
  | some .outside =>
    simp only [agentStep, outsideStep_withUnread]
    exact next_withUnread (h.congr (outsideStep_sameEngine s))

/-- Nor does the read of the host in an accepting step. -/
theorem hostLook_withUnread (turn : Option Agent) :
    hostLook turn (withUnread b r w s) = mapNext (withUnread b r w) (hostLook turn s) := by
  have same : readIsNext (withUnread b r w s) = readIsNext s := rfl
  unfold hostLook
  rw [same]
  split
  · exact hostStep_withUnread
  · rfl

/-- Nor does a step with reset released. -/
theorem runningStep_withUnread (h : UnreadOnly b r w s) (turn : Option Agent) :
    mapNext hideUnread (runningStep turn (withUnread b r w s)) = mapNext hideUnread (runningStep turn s) := by
  have same : offerReady (withUnread b r w s) = offerReady s := rfl
  unfold runningStep
  rw [same, chooseAgent_withUnread, hostLook_withUnread]
  split
  · cases hu : hostLook turn s with
    | next u => exact accept_withUnread (h.congr (hostLook_eq_next hu).1)
    | fault | refused => rfl
  · exact agentStep_withUnread h _

/-- One step does not depend on the unread registers. -/
theorem step_withUnread (h : UnreadOnly b r w s) :
    mapNext hideUnread (step (withUnread b r w s)) = mapNext hideUnread (step s) := by
  have turn : nextTurn (withUnread b r w s) = withUnread b r w (nextTurn s) := rfl
  unfold step machineStep resetStep
  simp only [withUnread_rstN, withUnread_schedule, turn, holdInReset_withUnread]
  split
  · exact runningStep_withUnread (h.congr (nextTurn_sameEngine s)) _
  · rfl

/-- So a step can be taken from the state with these registers cleared. -/
theorem step_hideUnread (s : State) : mapNext hideUnread (step (hideUnread s)) = mapNext hideUnread (step s) := by
  obtain ⟨b, r, w, hs, h⟩ := hideUnread_eq s
  rw [hs]
  exact step_withUnread h

end Sys2Proof.Machine

open Sys2Proof Sys2Proof.Machine

/-- Settles O41: both steps are the step from the one state in which the unread registers are cleared. -/
theorem unreadRegistersAreUnobservable : Obligations.UnreadRegistersAreUnobservable := by
  intro s t h
  rw [← step_hideUnread s, h, step_hideUnread t]

end

section
/-!
PROOFS. With reset released, KEYEXP alone writes RK and KEY_VALID: at its acceptance and in its micro-steps.
-/

namespace Sys2Proof.Machine

/-- The acceptance of a command that is no KEYEXP leaves the round keys (R66, R69). -/
theorem ExecCase.roundKeys {i : Instr} {s t : State} (c : ExecCase i s t) (hi : ∀ len, i ≠ .keyexp len) :
    t.rk = s.rk ∧ t.keyValid = s.keyValid := by
  cases c with
  | keyexp h => exact absurd h (hi _)
  | error | enc | dec | rkrd => exact ⟨rfl, rfl⟩

/-- A micro-step outside KX leaves the round keys (R66, R69). -/
theorem MicroCase.roundKeys {s t : State} (c : MicroCase s t) (hp : s.phase ≠ .kx) :
    t.rk = s.rk ∧ t.keyValid = s.keyValid := by
  cases c with
  | kx h | kxDone h => exact absurd h hp
  | idle | encFirst | encRound | encLast | decFirst | decRound | decLast => exact ⟨rfl, rfl⟩

end Sys2Proof.Machine

open Sys2Proof Sys2Proof.Machine

/-- Settles O42, by the cases of the step. -/
theorem roundKeysAreStableBetweenKeyexps : Obligations.RoundKeysAreStableBetweenKeyexps := by
  intro s t hn hp noKeyexp hs
  cases step_eq_next hs with
  | reset hr => simp [hn] at hr
  | illegal _ _ _ _ _ u e ht => exact ht ▸ ⟨e.rk, e.keyValid⟩
  | command _ hv hb i hd u e c =>
    have hi : ∀ len, i ≠ .keyexp len := by
      rintro len rfl
      exact noKeyexp ⟨hv, hb, len, hd⟩
    obtain ⟨hrk, hkv⟩ := c.roundKeys hi
    exact ⟨hrk.trans e.rk, hkv.trans e.keyValid⟩
  | micro _ _ u e c =>
    obtain ⟨hrk, hkv⟩ := c.roundKeys (e.phase ▸ hp)
    exact ⟨hrk.trans e.rk, hkv.trans e.keyValid⟩
  | still _ e => exact ⟨e.rk, e.keyValid⟩

end

section
/-!
PROOFS. The byte, word and 128-bit views of a value (R54, R55, R58).
-/

namespace Sys2Proof.Machine

section FourParts
variable {n : Nat}

/-- Four equal parts of a word, the most significant first, make up the word. -/
theorem append_four_parts (v : BitVec (n + n + n + n)) :
    v.extractLsb' (n + n + n) n ++ v.extractLsb' (n + n) n ++ v.extractLsb' n n ++ v.extractLsb' 0 n = v := by
  rw [BitVec.extractLsb'_append_extractLsb'_eq_extractLsb' rfl,
    BitVec.extractLsb'_append_extractLsb'_eq_extractLsb' rfl, BitVec.extractLsb'_append_extractLsb']

/-- Each of four parts put side by side is read back at its place. -/
theorem parts_of_append_four (a b c d : BitVec n) :
    (a ++ b ++ c ++ d).extractLsb' (n + n + n) n = a ∧ (a ++ b ++ c ++ d).extractLsb' (n + n) n = b ∧
    (a ++ b ++ c ++ d).extractLsb' n n = c ∧ (a ++ b ++ c ++ d).extractLsb' 0 n = d := by
  refine ⟨?_, ?_, ?_, BitVec.extractLsb'_append_eq_right⟩ <;>
    simp [BitVec.extractLsb'_append_eq_of_le, BitVec.extractLsb'_append_eq_right]

end FourParts

@[simp] theorem word_bytes (w : Word) : word (bytes w) = w := append_four_parts (n := 8) w

@[simp] theorem bytes_word (b : Column) : bytes (word b) = b := by
  obtain ⟨h0, h1, h2, h3⟩ := parts_of_append_four b.r0 b.r1 b.r2 b.r3
  simp only [word, bytes]
  rw [h0, h1, h2, h3]

@[simp] theorem vec128_bytes16 (v : Quad) : vec128 (bytes16 v) = v := by
  simp only [vec128, bytes16, word_bytes]
  exact append_four_parts (n := 32) v

@[simp] theorem bytes16_vec128 (b : Block) : bytes16 (vec128 b) = b := by
  obtain ⟨h0, h1, h2, h3⟩ := parts_of_append_four (word b.c0) (word b.c1) (word b.c2) (word b.c3)
  simp only [vec128, bytes16, quadOfWords]
  rw [h0, h1, h2, h3]
  simp

/-- `word` by shifts: b0 is the most significant byte (R54). -/
theorem word_eq_shifts (b : Column) :
    word b = (b.r0.setWidth 32 <<< 24) ||| (b.r1.setWidth 32 <<< 16) ||| (b.r2.setWidth 32 <<< 8) |||
      b.r3.setWidth 32 := by
  rw [← BitVec.setWidth_eq (word b)]
  exact BitVec.setWidth_append_append_append_eq_shiftLeft_setWidth_or

/-- Row `r` of a word's bytes is its `r`-th byte from the top (R54). -/
theorem rowOf_bytes (w : Word) (r : Fin 4) : rowOf (bytes w) r = w.extractLsb' (24 - 8 * r.val) 8 := by
  fin_cases r <;> rfl

/-- Column `c` of a value's matrix is its `c`-th word from the top (R55). -/
theorem colOf_bytes16 (v : Quad) (c : Fin 4) : colOf (bytes16 v) c = bytes (v.extractLsb' (96 - 32 * c.val) 32) := by
  fin_cases c <;> rfl

/-- A field of a field is a field. -/
theorem extractLsb'_extractLsb' {w : Nat} (v : BitVec w) {i j m n : Nat} (h : j + n ≤ m) :
    (v.extractLsb' i m).extractLsb' j n = v.extractLsb' (i + j) n := by
  ext k hk
  simp [BitVec.getElem_extractLsb', show j + k < m by omega, Nat.add_assoc]

/-- Byte `k` of a 128-bit value is bits `127 - 8k` to `120 - 8k` (R55). -/
theorem byteOf_bytes16 (v : Quad) (k : Fin 16) : byteOf (bytes16 v) k = v.extractLsb' (120 - 8 * k.val) 8 := by
  rw [byteOf, cell, colOf_bytes16, rowOf_bytes, extractLsb'_extractLsb' v (by omega)]
  congr 1
  have := k.isLt
  dsimp only
  omega

/-- A byte value shifted in from the right is appended below. -/
theorem shiftIn_byte (acc : Quad) {x : Int} (h0 : 0 ≤ x) (h1 : x ≤ 255) :
    (acc <<< 8) ||| BitVec.ofInt 128 x = acc.setWidth 120 ++ BitVec.ofInt 8 x := by
  have low : BitVec.ofInt 128 x = (BitVec.ofInt 8 x).setWidth 128 := by
    apply BitVec.eq_of_toNat_eq
    simp only [BitVec.toNat_setWidth, BitVec.toNat_ofInt]
    omega
  rw [low, ← BitVec.setWidth_eq (acc.setWidth 120 ++ BitVec.ofInt 8 x),
    BitVec.setWidth_append_eq_shiftLeft_setWidth_or]
  congr 1
  ext i hi
  simp [show i - 8 < 120 by omega, BitVec.getLsbD_eq_getElem (show i - 8 < 128 by omega)]

/-- The packed list holds its last byte lowest and, above it, the packing of the bytes before (R55). -/
theorem vec128List_concat (xs : List Int) {x : Int} (h0 : 0 ≤ x) (h1 : x ≤ 255) :
    vec128List (xs ++ [x]) = (vec128List xs).setWidth 120 ++ BitVec.ofInt 8 x := by
  rw [vec128List, List.foldl_concat, shiftIn_byte _ h0 h1]
  rfl

/-- The byte with `j` bytes after it stands `j` bytes from the bottom of the packed list. -/
theorem vec128List_byte (xs : List Int) (h : ∀ x ∈ xs, 0 ≤ x ∧ x ≤ 255) {i j : Nat} (hij : i + j + 1 = xs.length)
    (hj : j < 16) : (vec128List xs).extractLsb' (8 * j) 8 = BitVec.ofInt 8 (xs.getD i 0) := by
  induction xs using List.reverseRecOn generalizing j with
  | nil => simp at hij
  | append_singleton xs x ih =>
    obtain ⟨h0, h1⟩ := h x (by simp)
    rw [vec128List_concat xs h0 h1]
    simp only [List.length_append, List.length_singleton] at hij
    cases j with
    | zero =>
      obtain rfl : i = xs.length := by omega
      rw [BitVec.extractLsb'_append_eq_right]
      simp
    | succ j =>
      rw [BitVec.extractLsb'_append_eq_of_le (by omega), BitVec.extractLsb'_setWidth_of_le (by omega),
        show 8 * (j + 1) - 8 = 8 * j by omega, ih (fun y hy => h y (by simp [hy])) (by omega) (by omega),
        List.getD_append _ _ _ _ (by omega)]

end Sys2Proof.Machine

open Sys2Proof Sys2Proof.Machine

/-- Settles O34: words and 128-bit values by their four parts, the packed list by its bytes from the last one up. -/
theorem byteOrderViewsAgree : Obligations.ByteOrderViewsAgree := by
  refine ⟨fun b => ⟨bytes_word b, word_eq_shifts b⟩, word_bytes, fun v => ⟨vec128_bytes16 v, byteOf_bytes16 v⟩,
    bytes16_vec128, fun xs hxs k => ?_⟩
  obtain ⟨hlen, hbyte⟩ := hxs
  have hk := k.isLt
  rw [byteOf_bytes16, show 120 - 8 * k.val = 8 * (15 - k.val) by omega]
  exact vec128List_byte xs hbyte (by omega) (by omega)

end

section
/-!
PROOFS. Decoder and encoder are inverse to each other: the fields of a packed word, and everything the decoder can answer.
-/

namespace Sys2Proof

@[simp] theorem opField_packWord (op : BitVec 4) (arg : BitVec 5) : opField (packWord op arg) = op :=
  BitVec.extractLsb'_append_eq_right

@[simp] theorem argField_packWord (op : BitVec 4) (arg : BitVec 5) : argField (packWord op arg) = arg := by
  rw [argField, packWord, BitVec.extractLsb'_append_eq_of_le (by decide)]
  exact BitVec.extractLsb'_append_eq_right

@[simp] theorem rsvdField_packWord (op : BitVec 4) (arg : BitVec 5) : rsvdField (packWord op arg) = 0#7 := by
  rw [rsvdField, packWord, BitVec.extractLsb'_append_eq_of_le (by decide),
    BitVec.extractLsb'_append_eq_of_le (by decide)]
  exact BitVec.extractLsb'_eq_self

/-- With RSVD zero, OP and the 5-bit field are the whole word (R73). -/
theorem packWord_fields {w : BitVec 16} (h : rsvdField w = 0#7) : packWord (opField w) (argField w) = w := by
  rw [packWord, ← h, rsvdField, argField, opField, BitVec.extractLsb'_append_extractLsb'_eq_extractLsb' (by decide),
    BitVec.extractLsb'_append_extractLsb']

/-- The decoder reads back every instruction the engine has (R77, R80). -/
theorem decode_encode {hasRkrd : Bool} {i : Instr} (h : i.wellFormed hasRkrd = true) :
    decode hasRkrd (encode i) = .ok i := by
  cases i with
  | keyexp | enc | dec => simp [decode, encode]
  | rkrd =>
    obtain rfl : hasRkrd = true := h
    simp [decode, encode]

/-- An OP without a row in the opcode table is one R78 lists. -/
theorem op_without_row {op : BitVec 4} (h1 : op ≠ 1#4) (h2 : op ≠ 2#4) (h3 : op ≠ 3#4) (h4 : op ≠ 4#4) :
    op = 0#4 ∨ 5 ≤ op.toNat := by
  bv_omega

/-- Everything the decoder can answer (R78, R80): an instruction of the engine whose word it was given, or a rejection with
its reason. -/
inductive DecodeCase (hasRkrd : Bool) (w : BitVec 16) : Except Illegal Instr → Prop where
  | command (i : Instr) (hi : i.wellFormed hasRkrd = true) (hw : encode i = w) : DecodeCase hasRkrd w (.ok i)
  | reservedBits (h : rsvdField w ≠ 0#7) : DecodeCase hasRkrd w (.error .reservedBits)
  | illegalOp (h : opField w = 0#4 ∨ 5 ≤ (opField w).toNat) : DecodeCase hasRkrd w (.error .illegalOp)
  | rkrdAbsent (h : opField w = 4#4) (hh : hasRkrd = false) : DecodeCase hasRkrd w (.error .rkrdAbsent)

/-- Every answer of the decoder is one of those cases. -/
theorem decode_cases (hasRkrd : Bool) (w : BitVec 16) : DecodeCase hasRkrd w (decode hasRkrd w) := by
  unfold decode
  split
  next h => exact .reservedBits h
  next h =>
    have command {i : Instr} (hi : i.wellFormed hasRkrd = true) (hw : encode i = packWord (opField w) (argField w)) :
        DecodeCase hasRkrd w (.ok i) := .command i hi (hw.trans (packWord_fields (not_not.1 h)))
    split
    next op => exact command rfl (by rw [op, encode])
    next op => exact command rfl (by rw [op, encode])
    next op => exact command rfl (by rw [op, encode])
    next op =>
      cases hasRkrd
      · exact .rkrdAbsent op rfl
      · exact command rfl (by rw [op, encode])
    next not1 not2 not3 not4 => exact .illegalOp (op_without_row not1 not2 not3 not4)

/-- A word that decodes is the word of an instruction of the engine (R77, R79). -/
theorem decode_eq_ok {hasRkrd : Bool} {w : BitVec 16} {i : Instr} (h : decode hasRkrd w = .ok i) :
    encode i = w ∧ i.wellFormed hasRkrd = true := by
  have c := decode_cases hasRkrd w
  rw [h] at c
  cases c with
  | command _ hi hw => exact ⟨hw, hi⟩

/-- The words R78 lists as illegal, in the fields of R73. -/
def ListedIllegal (hasRkrd : Bool) (w : BitVec 16) : Prop :=
  rsvdField w ≠ 0#7 ∨ opField w = 0#4 ∨ 5 ≤ (opField w).toNat ∨ (opField w = 4#4 ∧ hasRkrd = false)

/-- A rejected word is a listed one. -/
theorem listedIllegal_of_decode_eq_error {hasRkrd : Bool} {w : BitVec 16} {e : Illegal}
    (h : decode hasRkrd w = .error e) : ListedIllegal hasRkrd w := by
  have c := decode_cases hasRkrd w
  rw [h] at c
  cases c with
  | reservedBits hr => exact .inl hr
  | illegalOp ho => exact .inr (ho.imp_right .inl)
  | rkrdAbsent ho hh => exact .inr (.inr (.inr ⟨ho, hh⟩))

/-- No instruction of the engine has a listed word. -/
theorem not_listedIllegal_encode {hasRkrd : Bool} {i : Instr} (h : i.wellFormed hasRkrd = true) :
    ¬ ListedIllegal hasRkrd (encode i) := by
  cases i with
  | keyexp | enc | dec => simp [ListedIllegal, encode]
  | rkrd =>
    obtain rfl : hasRkrd = true := h
    simp [ListedIllegal, encode]

/-- The decoder rejects exactly the listed words (R78, R79). -/
theorem decode_error_iff {hasRkrd : Bool} {w : BitVec 16} :
    (∃ e, decode hasRkrd w = .error e) ↔ ListedIllegal hasRkrd w := by
  refine ⟨fun ⟨_, h⟩ => listedIllegal_of_decode_eq_error h, fun listed => ?_⟩
  cases hd : decode hasRkrd w with
  | error e => exact ⟨e, rfl⟩
  | ok i =>
    obtain ⟨rfl, hi⟩ := decode_eq_ok hd
    exact absurd listed (not_listedIllegal_encode hi)

end Sys2Proof

open Sys2Proof Sys2Proof.Machine

/-- Settles O1, each word by evaluating the decoder. -/
theorem specWordsDecodeToTheirCommands : Obligations.SpecWordsDecodeToTheirCommands := by
  unfold Obligations.SpecWordsDecodeToTheirCommands
  decide

/-- Settles O2, by the fields of a packed word. -/
theorem decodeOfEncodeIsTheInstruction : Obligations.DecodeOfEncodeIsTheInstruction :=
  fun _ _ => decode_encode

/-- Settles O3, by the cases of the decoder. -/
theorem encodeOfDecodeIsTheWord : Obligations.EncodeOfDecodeIsTheWord :=
  fun _ _ _ => decode_eq_ok

/-- Settles O4: `ListedIllegal` is the list of R78. -/
theorem illegalWordsAreExactlyThoseListed : Obligations.IllegalWordsAreExactlyThoseListed :=
  fun _ _ => decode_error_iff

end

section
/-!
PROOFS. The accepting step: the read of the host that is due, then the command decoded at the port.
-/

namespace Sys2Proof.Machine

/-- A word that decodes runs as its command, with the offer taken from the port (R220). -/
theorem accept_of_decode {s : State} {i : Instr} (h : decode s.hasRkrd s.cmd = .ok i) :
    accept s = exec i (takeOffer s) := by
  simp only [accept, h]

/-- A read of the host that is due in an accepting step is the host's step (R229, log 6). -/
theorem hostLook_of_read {s : State} (h : readIsNext s = true) : hostLook (some .host) s = hostStep s :=
  if_pos ⟨rfl, h⟩

/-- With no call in flight the host runs its next line. -/
theorem hostStep_of_line {s : State} {l : HostLine} {rest : List HostLine} (hj : s.job = none)
    (hs : s.script = l :: rest) : hostStep s = hostLine l { s with script := rest } := by
  simp only [hostStep, hj, hs]

/-- A due read of STATUS gives the host the flags as they are before the acceptance (R229). -/
theorem hostLook_rdstat {s : State} {rest : List HostLine} (hj : s.job = none) (hs : s.script = .rdstat :: rest) :
    hostLook (some .host) s = .next (record (.status (status s)) { s with script := rest }) := by
  rw [hostLook_of_read (by simp [readIsNext, hj, hs]), hostStep_of_line hj hs]
  rfl

/-- A due read of a DOUT that is there gives the host its value (R230). -/
theorem hostLook_rdout {s : State} {rest : List HostLine} {v : Quad} (hj : s.job = none) (hs : s.script = .rdout :: rest)
    (hb : s.busy = false) (hv : s.doutValid = true) (hd : s.dout = some v) :
    hostLook (some .host) s = .next (record (.dout v) { s with script := rest }) := by
  rw [hostLook_of_read (by simp [readIsNext, hj, hs]), hostStep_of_line hj hs, hostLine, rdout,
    readDout_valid (s := { s with script := rest }) hb hv hd, mapNext_next]

end Sys2Proof.Machine

open Sys2Proof Sys2Proof.Machine

/-- Settles O5: `step_of_offer`, with what the host looks at in each of the three cases. -/
theorem stepRunsTheDecodedCommand : Obligations.StepRunsTheDecodedCommand := by
  refine ⟨fun s => step_of_offer, fun s i hn hv hb hd => ⟨fun noRead => ?_, ?_, ?_⟩⟩
  · rw [step_of_offer hn hv hb, hostLook_none (s := nextTurn s) noRead]
    exact accept_of_decode hd
  · intro rest turns hj hturn hs
    rw [step_of_offer hn hv hb, hturn, List.head?_cons, hostLook_rdstat (s := nextTurn s) hj hs, nextTurn, hturn]
    exact accept_of_decode hd
  · intro rest turns v hj hturn hs hdv hdo
    rw [step_of_offer hn hv hb, hturn, List.head?_cons, hostLook_rdout (s := nextTurn s) hj hs hb hdv hdo, nextTurn, hturn]
    exact accept_of_decode hd

end

section
/-!
PROOFS. The laws of gfmul (R103, R104). The product is additive in each operand, so a law holds of every byte once it
holds of the powers of x, by which a product is a row of doublings. The inverse of a byte is its power 254 (Fermat).
-/

namespace Sys2Proof.Machine

/-- Multiplication is additive in its second operand, whose bits select the doublings. -/
theorem gfmul_xor_right (a b c : Byte) : gfmul a (b ^^^ c) = gfmul a b ^^^ gfmul a c := by
  unfold gfmul
  simp only [BitVec.getLsbD_xor]
  generalize List.range 8 = ks
  have selection (p q : Bool) (m : Byte) : (if (p ^^ q) then 0#8 ^^^ m else 0#8) =
      (if p then 0#8 ^^^ m else 0#8) ^^^ (if q then 0#8 ^^^ m else 0#8) := by
    cases p <;> cases q <;> simp
  induction ks with
  | nil => simp
  | cons k ks ih =>
    simp only [List.foldl_cons]
    rw [gfmul_fold_start, gfmul_fold_start _ b.getLsbD, gfmul_fold_start _ c.getLsbD, ih, selection]
    ac_rfl

/-- Additive functions that agree on the powers of x are equal. -/
theorem additive_ext {f g : Byte → Byte} (hf : ∀ a b, f (a ^^^ b) = f a ^^^ f b)
    (hg : ∀ a b, g (a ^^^ b) = g a ^^^ g b) (basis : ∀ k, k < 8 → f (1#8 <<< k) = g (1#8 <<< k)) (a : Byte) :
    f a = g a := by
  refine BitVec.xor_eq_zero_iff.mp (additive_eq_zero (f := fun x => f x ^^^ g x) (fun x y => ?_) (fun k hk => ?_) a)
  · rw [hf, hg]; ac_rfl
  · rw [basis k hk, BitVec.xor_self]

/-- By a power of x the product is a row of doublings. -/
theorem gfmul_powerOfX (a : Byte) {k : Nat} (hk : k < 8) : gfmul a (1#8 <<< k) = xtimes a k := by
  interval_cases k <;> exact BitVec.zero_xor

/-- A power of x is a row of doublings of 1. -/
theorem powerOfX_eq_xtimes {k : Nat} (hk : k < 8) : 1#8 <<< k = xtimes 1#8 k := by
  interval_cases k <;> rfl

theorem xtimes_xtime (a : Byte) (k : Nat) : xtimes (xtime a) k = xtime (xtimes a k) := by
  induction k with
  | zero => rfl
  | succ k ih => exact congrArg xtime ih

theorem gfmul_xtime_left (a b : Byte) : gfmul (xtime a) b = xtime (gfmul a b) := by
  refine additive_ext (g := fun b => xtime (gfmul a b)) (gfmul_xor_right (xtime a)) (fun b c => ?_) (fun k hk => ?_) b
  · rw [gfmul_xor_right, xtime_xor]
  · rw [gfmul_powerOfX _ hk, gfmul_powerOfX _ hk, xtimes_xtime]

theorem gfmul_xtimes_left (a b : Byte) (k : Nat) : gfmul (xtimes a k) b = xtimes (gfmul a b) k := by
  induction k with
  | zero => rfl
  | succ k ih => rw [xtimes, gfmul_xtime_left, ih, xtimes]

theorem one_gfmul (a : Byte) : gfmul 1#8 a = a :=
  additive_ext (g := id) (gfmul_xor_right 1#8) (fun _ _ => rfl)
    (fun _ hk => (gfmul_powerOfX _ hk).trans (powerOfX_eq_xtimes hk).symm) a

theorem gfmul_comm (a b : Byte) : gfmul a b = gfmul b a := by
  refine additive_ext (g := fun b => gfmul b a) (gfmul_xor_right a) (fun b c => gfmul_xor_left b c a) (fun k hk => ?_) b
  calc gfmul a (1#8 <<< k) = xtimes (gfmul 1#8 a) k := by rw [gfmul_powerOfX a hk, one_gfmul]
    _ = gfmul (1#8 <<< k) a := by rw [powerOfX_eq_xtimes hk, gfmul_xtimes_left]

theorem gfmul_assoc (a b c : Byte) : gfmul a (gfmul b c) = gfmul (gfmul a b) c := by
  refine additive_ext (f := fun c => gfmul a (gfmul b c)) (fun c d => ?_) (gfmul_xor_right (gfmul a b))
    (fun k hk => ?_) c
  · rw [gfmul_xor_right b, gfmul_xor_right a]
  · calc gfmul a (gfmul b (1#8 <<< k)) = gfmul (xtimes b k) a := by rw [gfmul_powerOfX b hk, gfmul_comm]
      _ = gfmul (gfmul a b) (1#8 <<< k) := by rw [gfmul_xtimes_left, gfmul_comm b, gfmul_powerOfX _ hk]

theorem gfmul_one (a : Byte) : gfmul a 0x01#8 = a := gfmul_powerOfX a (k := 0) (by decide)

theorem gfmul_two (a : Byte) : gfmul a 0x02#8 = xtime a := gfmul_powerOfX a (k := 1) (by decide)

theorem gfmul_four (a : Byte) : gfmul a 0x04#8 = xtime (xtime a) := gfmul_powerOfX a (k := 2) (by decide)

theorem gfmul_eight (a : Byte) : gfmul a 0x08#8 = xtime (xtime (xtime a)) := gfmul_powerOfX a (k := 3) (by decide)

theorem gfmul_three (a : Byte) : gfmul a 0x03#8 = xtime a ^^^ a := by
  rw [show 0x03#8 = 0x02#8 ^^^ 0x01#8 from rfl, gfmul_xor_right, gfmul_two, gfmul_one]

/-- The square of a byte in the field. -/
def gfsquare (a : Byte) : Byte := gfmul a a

/-- Squaring is additive: the two mixed products cancel. -/
theorem gfsquare_xor (a b : Byte) : gfsquare (a ^^^ b) = gfsquare a ^^^ gfsquare b := by
  simp only [gfsquare, gfmul_xor_left, gfmul_xor_right, gfmul_comm b a]
  rw [BitVec.xor_assoc, ← BitVec.xor_assoc (gfmul a b), BitVec.xor_self, BitVec.zero_xor]

theorem gfsquare_gfmul (a b : Byte) : gfsquare (gfmul a b) = gfmul (gfsquare a) (gfsquare b) := by
  have assoc : Std.Associative gfmul := ⟨fun a b c => (gfmul_assoc a b c).symm⟩
  have comm : Std.Commutative gfmul := ⟨gfmul_comm⟩
  unfold gfsquare
  ac_rfl

theorem iterate_gfsquare_xor (n : Nat) (a b : Byte) :
    gfsquare^[n] (a ^^^ b) = gfsquare^[n] a ^^^ gfsquare^[n] b := by
  induction n generalizing a b with
  | zero => rfl
  | succ n ih => simp only [Function.iterate_succ_apply, gfsquare_xor, ih]

/-- Fermat: eight squarings, the power 256, give the byte back. -/
theorem iterate_gfsquare_eight (a : Byte) : gfsquare^[8] a = a :=
  additive_ext (g := id) (iterate_gfsquare_xor 8) (fun _ _ => rfl) (by decide +kernel) a

/-- The power `2 ^ (n + 1) - 2` of a byte. -/
def fermatPower (a : Byte) : Nat → Byte
  | 0 => 1#8
  | n + 1 => gfsquare (gfmul a (fermatPower a n))

theorem gfmul_gfmul_fermatPower (a : Byte) (n : Nat) :
    gfmul a (gfmul a (fermatPower a n)) = gfsquare^[n + 1] a := by
  induction n with
  | zero => rw [fermatPower, gfmul_one]; rfl
  | succ n ih =>
    calc gfmul a (gfmul a (fermatPower a (n + 1)))
        = gfmul (gfsquare a) (gfsquare (gfmul a (fermatPower a n))) := gfmul_assoc ..
      _ = gfsquare^[n + 2] a := by rw [← gfsquare_gfmul, ih, ← Function.iterate_succ_apply' gfsquare]

/-- Only 0 and 1 are their own squares: with the reduction by 0x11B the bytes are not a product of two rings. -/
theorem eq_zero_or_one_of_gfsquare_eq : ∀ a : Byte, gfsquare a = a → a = 0#8 ∨ a = 1#8 := by
  decide +kernel

/-- The power 254 inverts: the power 255 is its own square, and were it 0, so would the byte be, its own power 256. -/
theorem gfmul_fermatPower {a : Byte} (ha : a ≠ 0#8) : gfmul a (fermatPower a 7) = 1#8 := by
  have fixes : gfmul a (gfmul a (fermatPower a 7)) = a :=
    (gfmul_gfmul_fermatPower a 7).trans (iterate_gfsquare_eight a)
  generalize fermatPower a 7 = p at fixes ⊢
  have idempotent : gfsquare (gfmul a p) = gfmul a p :=
    calc gfsquare (gfmul a p) = gfmul (gfmul a (gfmul a p)) p := by
          rw [gfsquare, gfmul_assoc, gfmul_comm (gfmul a p) a]
      _ = gfmul a p := by rw [fixes]
  refine (eq_zero_or_one_of_gfsquare_eq _ idempotent).resolve_left fun zero => ha ?_
  calc a = gfmul a (gfmul a p) := fixes.symm
    _ = 0#8 := by rw [zero]; rfl

theorem gfmul_inverse_unique {a b b' : Byte} (h : gfmul a b = 1#8) (h' : gfmul a b' = 1#8) : b' = b :=
  calc b' = gfmul b' (gfmul a b) := by rw [h, gfmul_one]
    _ = gfmul (gfmul a b') b := by rw [gfmul_assoc, gfmul_comm b' a]
    _ = b := by rw [h', one_gfmul]

end Sys2Proof.Machine

open Sys2Proof Sys2Proof.Machine

/-- Settles O28, law by law; the inverse is the power 254. -/
theorem gfmulIsFieldMultiplication : Obligations.GfmulIsFieldMultiplication :=
  ⟨gfmul_comm, gfmul_assoc, gfmul_xor_right, fun a => ⟨gfmul_two a, gfmul_three a⟩,
    fun a ha => ⟨fermatPower a 7, gfmul_fermatPower ha, fun _ => gfmul_inverse_unique (gfmul_fermatPower ha)⟩⟩

/-- Settles O29: each constant is a sum of powers of x, and the product is additive. -/
theorem constantMultiplesFromDoublings : Obligations.ConstantMultiplesFromDoublings := by
  refine fun a => ⟨gfmul_one a, gfmul_two a, gfmul_three a, ?_, ?_, ?_, ?_⟩
  · rw [show 0x09#8 = 0x08#8 ^^^ 0x01#8 from rfl, gfmul_xor_right, gfmul_eight, gfmul_one]
  · rw [show 0x0b#8 = 0x08#8 ^^^ 0x02#8 ^^^ 0x01#8 from rfl, gfmul_xor_right, gfmul_xor_right, gfmul_eight, gfmul_two,
      gfmul_one]
  · rw [show 0x0d#8 = 0x08#8 ^^^ 0x04#8 ^^^ 0x01#8 from rfl, gfmul_xor_right, gfmul_xor_right, gfmul_eight, gfmul_four,
      gfmul_one]
  · rw [show 0x0e#8 = 0x08#8 ^^^ 0x04#8 ^^^ 0x02#8 from rfl, gfmul_xor_right, gfmul_xor_right, gfmul_eight, gfmul_four,
      gfmul_two]

end

section
/-!
PROOFS. The substitution tables (R120 to R123) and RCON (R124, R125). An S-box entry is audited backwards: undoing the
affine map must give the field inverse of its index, and a byte has one inverse only. Of the inverse tables one law is
read off the entries; the other follows, the bytes being finitely many. RCON holds the powers of x.
-/

namespace Sys2Proof.Machine

theorem zero_gfmul (b : Byte) : gfmul 0#8 b = 0#8 := by
  rw [gfmul_comm]; rfl

/-- The inverse of the affine map of R121. -/
def sboxAffineInv (v : Byte) : Byte := rotl8 v 1 ^^^ rotl8 v 3 ^^^ rotl8 v 6 ^^^ 0x05#8

theorem sboxAffine_sboxAffineInv : ∀ v : Byte, sboxAffine (sboxAffineInv v) = v := by
  decide +kernel

/-- R121 at the entries of R120: without the affine map, an entry is the field inverse of its index. -/
theorem gfmul_sboxAffineInv_sbox : ∀ a : Byte, a ≠ 0#8 → gfmul a (sboxAffineInv (sbox a)) = 1#8 := by
  decide +kernel

theorem sbox_of_gfmul_eq_one {a b : Byte} (inverse : gfmul a b = 1#8) : sbox a = sboxAffine b := by
  have nonzero : a ≠ 0#8 := by
    rintro rfl
    rw [zero_gfmul] at inverse
    exact absurd inverse (by decide)
  rw [gfmul_inverse_unique (gfmul_sboxAffineInv_sbox a nonzero) inverse, sboxAffine_sboxAffineInv]

/-- The law by which R122 defines INVSBOX, at the entries of the two tables. -/
theorem invSbox_sbox : Function.LeftInverse invSbox sbox := by
  unfold Function.LeftInverse
  decide +kernel

/-- R123: a left inverse of a map of a finite set to itself is a two-sided inverse. -/
theorem sbox_invSbox : Function.RightInverse invSbox sbox :=
  invSbox_sbox.rightInverse_of_surjective (Finite.surjective_of_injective invSbox_sbox.injective)

theorem sbox_ne_self : ∀ x : Byte, sbox x ≠ x := by
  decide +kernel

/-- R125: entry `j` of RCON is the power `j` of x. -/
theorem rcon_eq_xtimes {j : Nat} (hj : j < 10) : rcon j = xtimes 1#8 j := by
  interval_cases j <;> rfl

end Sys2Proof.Machine

open Sys2Proof Sys2Proof.Machine

/-- Settles O30: the entry at 0 is evaluated; at any other byte the entry is the affine map of the one inverse. -/
theorem sboxIsAffineOfFieldInverse : Obligations.SboxIsAffineOfFieldInverse := by
  rintro a b (⟨rfl, rfl⟩ | inverse)
  · decide
  · exact sbox_of_gfmul_eq_one inverse

/-- Settles O31: a fixed point of INVSBOX would be one of SBOX. -/
theorem substitutionTablesAreMutualInverses : Obligations.SubstitutionTablesAreMutualInverses := fun x =>
  ⟨invSbox_sbox x, sbox_invSbox x, sbox_ne_self x,
    fun fixed => sbox_ne_self x ((congrArg sbox fixed).symm.trans (sbox_invSbox x))⟩

/-- Settles O32: the powers of x double by definition, and x^8 and x^9 are evaluated. -/
theorem rconDoublesInTheField : Obligations.RconDoublesInTheField := by
  refine ⟨rcon_eq_xtimes (by decide), fun j hj => ?_, rcon_eq_xtimes (by decide), rcon_eq_xtimes (by decide)⟩
  rw [rcon_eq_xtimes (by omega), rcon_eq_xtimes (by omega), xtimes]

end

section
/-!
PROOFS. RotWord, SubWord and the word form of RCON on bytes (R142, R143, R124).
-/

namespace Sys2Proof.Machine

/-- RotWord moves the first byte behind the other three (R142). -/
theorem bytes_rotWord (w : Word) :
    bytes (rotWord w) = ⟨(bytes w).r1, (bytes w).r2, (bytes w).r3, (bytes w).r0⟩ := by
  have beyond {j : Nat} (h : 32 ≤ j) : w.getLsbD j = false := BitVec.getLsbD_of_ge w j h
  unfold bytes rotWord
  congr 1 <;> ext i hi <;>
    simp only [BitVec.getElem_extractLsb', BitVec.getLsbD_or, BitVec.getLsbD_shiftLeft, BitVec.getLsbD_ushiftRight] <;>
    grind

/-- SubWord substitutes each byte (R143). -/
theorem bytes_subWord (w : Word) :
    bytes (subWord w) = ⟨sbox (bytes w).r0, sbox (bytes w).r1, sbox (bytes w).r2, sbox (bytes w).r3⟩ :=
  bytes_word _

/-- The word form of an RCON entry is the byte shifted to the top (R124). -/
theorem rconWord_eq_shift (j : Nat) : rconWord j = (rcon j).setWidth 32 <<< 24 := by
  simp [rconWord, word_eq_shifts]

/-- `keyTemp` as R144 and R145 write it. -/
theorem keyTemp_eq (i : Nat) (prev : Word) : keyTemp i prev =
    if i % 4 = 0 then subWord (rotWord prev) ^^^ ((rcon (i / 4 - 1)).setWidth 32 <<< 24) else prev := by
  rw [keyTemp, rconWord_eq_shift]

end Sys2Proof.Machine

open Sys2Proof Sys2Proof.Machine

/-- Settles O33: both functions on the bytes of a word, and the bytes of the word made of `b` are `b`. -/
theorem rotWordAndSubWordActOnBytes : Obligations.RotWordAndSubWordActOnBytes := fun b =>
  ⟨by rw [bytes_rotWord, bytes_word], by rw [bytes_subWord, bytes_word]⟩

end

section
/-!
PROOFS. The expansion of a key by the engine (R147, R148, R200, R222): each KX_STEP writes the next word of the pure
function of R140, so forty of them fill the store.
-/

namespace Sys2Proof.Machine

/-- A KX_STEP inside the expansion is the engine's micro-step (R147). -/
theorem microStep_kx {s : State} (hp : s.phase = .kx) (lo : 4 ≤ s.widx.toNat) (hi : s.widx.toNat < 43) :
    microStep s = .next (deriveWord (kxWord s) s) := by
  rw [microStep, hp]; exact kxStep_mid lo hi

/-- The KX_STEP that writes RK[43] completes (R148). -/
theorem microStep_kxDone {s : State} (hp : s.phase = .kx) (hw : s.widx.toNat = 43) :
    microStep s = .next (finishExpansion (deriveWord (kxWord s) s)) := by
  rw [microStep, hp]; exact kxStep_last hw

/-- A KX_STEP leaves every word of RK but the one at WIDX. -/
theorem rk_deriveWord_other {s : State} {i : Nat} (h : i ≠ s.widx.toNat) (w : Word) :
    (deriveWord w s).rk[i]? = s.rk[i]? := by
  simp [Ne.symm h]

/-- With PHASE KX every micro-step derives a word, and at 43 it completes besides (R147, R148). -/
theorem microStep_eq_next_of_kx {s t : State} (hp : s.phase = .kx) (h : microStep s = .next t) :
    (s.widx.toNat < 43 ∧ t = deriveWord (kxWord s) s) ∨
      (s.widx.toNat = 43 ∧ t = finishExpansion (deriveWord (kxWord s) s)) := by
  cases microStep_eq_next h with
  | kx _ _ hi => exact .inl ⟨hi, rfl⟩
  | kxDone _ hw => exact .inr ⟨hw, rfl⟩
  | idle hq | encFirst hq | encRound hq | encLast hq | decFirst hq | decRound hq | decLast hq =>
    cases hp.symm.trans hq

/-- A KX_STEP writes its word at WIDX and no other, and moves WIDX on (R147). -/
theorem microStep_rk_of_kx {s t : State} (hp : s.phase = .kx) (h : microStep s = .next t) :
    rkWord t s.widx.toNat = kxWord s ∧ (∀ i, i ≠ s.widx.toNat → t.rk[i]? = s.rk[i]?) ∧
      t.widx.toNat = s.widx.toNat + 1 := by
  rcases microStep_eq_next_of_kx hp h with ⟨hw, rfl⟩ | ⟨hw, rfl⟩ <;>
    exact ⟨rkWord_deriveWord_same (by omega) _, fun i hi => rk_deriveWord_other hi _, widx_succ (by omega)⟩

/-- The recurrence of R144 and R145, at the index of the word it gives. -/
theorem keyWord_of_four_le (key : Quad) {i : Nat} (h : 4 ≤ i) :
    keyWord key i = keyWord key (i - 4) ^^^ keyTemp i (keyWord key (i - 1)) := by
  obtain ⟨j, rfl⟩ := Nat.exists_eq_add_of_le' h
  rfl

/-- The words of RK below index `n` are written and are the expansion of `key`. -/
def RkHolds (key : Quad) (s : State) (n : Nat) : Prop :=
  ∀ i, i < n → rkWritten s i ∧ rkWord s i = keyWord key i

/-- The acceptance of KEYEXP writes the expansion's first four words (R141, R222). -/
theorem rkHolds_startKeyExpansion (s : State) : RkHolds s.operand (startKeyExpansion s) 4 := by
  intro i hi
  obtain ⟨h0, h1, h2, h3⟩ := rkWord_storeKey (operandBlock s) s
  refine ⟨(rkWritten_congr (startKeyExpansion_rk s) i).2 (rkWritten_storeKey _ s hi), ?_⟩
  rw [rkWord_startKeyExpansion]
  match i with
  | 0 => exact h0
  | 1 => exact h1
  | 2 => exact h2
  | 3 => exact h3

/-- Over the expansion's words a KX_STEP writes its next word (R147). -/
theorem kxWord_eq_keyWord {key : Quad} {s : State} (lo : 4 ≤ s.widx.toNat) (h : RkHolds key s s.widx.toNat) :
    kxWord s = keyWord key s.widx.toNat := by
  rw [kxWord, (h _ (by omega)).2, (h _ (by omega)).2, keyWord_of_four_le key lo]

/-- So with each KX_STEP the store holds one word more. -/
theorem rkHolds_deriveWord {key : Quad} {s : State} (h : RkHolds key s s.widx.toNat) (lo : 4 ≤ s.widx.toNat)
    (hi : s.widx.toNat < 44) : RkHolds key (deriveWord (kxWord s) s) (s.widx.toNat + 1) := by
  intro i hlt
  refine ⟨rkWritten_deriveWord_below hi _ (fun j hj => (h j hj).1) i hlt, ?_⟩
  by_cases hw : i = s.widx.toNat
  · rw [hw, rkWord_deriveWord_same hi, kxWord_eq_keyWord lo h]
  · rw [rkWord_deriveWord_other hw, (h i (by omega)).2]

/-- What KEYEXP leaves alone from its acceptance to its completion (R221). -/
structure KeyexpKeeps (s t : State) : Prop where
  st : t.st = s.st
  dout : t.dout = s.dout
  doutValid : t.doutValid = s.doutValid
  round : t.round = s.round
  outside : SameOutside s t

theorem KeyexpKeeps.trans {a b c : State} (h : KeyexpKeeps a b) (k : KeyexpKeeps b c) : KeyexpKeeps a c where
  st := k.st.trans h.st
  dout := k.dout.trans h.dout
  doutValid := k.doutValid.trans h.doutValid
  round := k.round.trans h.round
  outside := h.outside.trans k.outside

theorem startKeyExpansion_keeps (s : State) : KeyexpKeeps s (startKeyExpansion s) :=
  ⟨startKeyExpansion_st s, startKeyExpansion_dout s, startKeyExpansion_doutValid s, startKeyExpansion_round s,
    exec_sameOutside (exec_keyexp_16 s)⟩

theorem microStep_keeps_of_kx {s t : State} (hp : s.phase = .kx) (h : microStep s = .next t) : KeyexpKeeps s t := by
  have outside := microStep_sameOutside h
  rcases microStep_eq_next_of_kx hp h with ⟨-, rfl⟩ | ⟨-, rfl⟩ <;> exact ⟨rfl, rfl, rfl, rfl, outside⟩

/-- KEYEXP, accepted in `s`, is under way in `t` with WIDX at `n` (R223): the words below `n` are there, the flags are
those of the acceptance and ERR is still the one before it. -/
structure Expanding (s t : State) (n : Nat) : Prop where
  words : RkHolds s.operand t n
  widx : t.widx.toNat = n
  phase : t.phase = .kx
  busy : t.busy = true
  keyValid : t.keyValid = false
  err : t.err = s.err
  keeps : KeyexpKeeps s t

theorem expanding_startKeyExpansion (s : State) : Expanding s (startKeyExpansion s) 4 where
  words := rkHolds_startKeyExpansion s
  widx := rfl
  phase := rfl
  busy := rfl
  keyValid := rfl
  err := rfl
  keeps := startKeyExpansion_keeps s

/-- One KX_STEP short of the last (R147). -/
theorem Expanding.next {s t : State} {n : Nat} (h : Expanding s t n) (lo : 4 ≤ n) (hi : n < 43) :
    ∃ u, microStep t = .next u ∧ Expanding s u (n + 1) := by
  obtain rfl := h.widx
  have step := microStep_kx h.phase lo hi
  exact ⟨_, step, {
    words := rkHolds_deriveWord h.words lo (by omega)
    widx := widx_succ hi.le
    phase := h.phase
    busy := h.busy
    keyValid := h.keyValid
    err := h.err
    keeps := h.keeps.trans (microStep_keeps_of_kx h.phase step) }⟩

/-- Each of the first 39 micro-steps after the acceptance derives one word (R200). -/
theorem expanding_after_microSteps (s : State) {n : Nat} (hn : n ≤ 39) :
    ∃ t, microSteps n (startKeyExpansion s) = .next t ∧ Expanding s t (n + 4) := by
  induction n with
  | zero => exact ⟨_, rfl, expanding_startKeyExpansion s⟩
  | succ n ih =>
    obtain ⟨t, ht, h⟩ := ih (by omega)
    obtain ⟨u, hu, h'⟩ := h.next (by omega) (by omega)
    exact ⟨u, by rw [microSteps_succ, ht, bindNext_next, hu], by rwa [Nat.add_right_comm]⟩

/-- The last KX_STEP leaves the whole expansion in the store and completes the command (R148). -/
theorem Expanding.finish {s t : State} (h : Expanding s t 43) :
    ∃ u, microStep t = .next u ∧ RkHolds s.operand u 44 ∧ u.keyValid = true ∧ u.busy = false ∧
      u.phase = .idle ∧ u.err = 0#4 ∧ KeyexpKeeps s u := by
  have last := h.widx
  have step := microStep_kxDone h.phase last
  have words := rkHolds_deriveWord (last ▸ h.words) (by omega) (by omega)
  rw [last] at words
  exact ⟨_, step, words, rfl, rfl, rfl, rfl, h.keeps.trans (microStep_keeps_of_kx h.phase step)⟩

end Sys2Proof.Machine

open Sys2Proof Sys2Proof.Machine

/-- Settles O19: 39 micro-steps derive words 4 to 42, and the fortieth derives the last and completes. -/
theorem keyExpansionFillsTheStore : Obligations.KeyExpansionFillsTheStore := by
  intro s
  obtain ⟨t, ht, underWay⟩ := expanding_after_microSteps s (n := 39) le_rfl
  obtain ⟨u, hu, words, keyValid, busy, phase, err, keeps⟩ := underWay.finish
  refine ⟨u, ?_, words, keyValid, busy, phase, err, keeps.st, keeps.dout, keeps.doutValid, keeps.round,
    keeps.outside⟩
  rw [exec_keyexp_16, bindNext_next, microSteps_succ, ht, bindNext_next, hu]

/-- Settles O16: what every KX_STEP writes and keeps, and the flags below 43 and at 43. -/
theorem kxStepDerivesOneWord : Obligations.KxStepDerivesOneWord := by
  intro s hp lo hi
  obtain ⟨t, ht, -⟩ := microStep_cases (s := s) (fun _ => ⟨lo, hi⟩) (by simp [hp])
  obtain ⟨word, others, next⟩ := microStep_rk_of_kx hp ht
  have keeps := microStep_keeps_of_kx hp ht
  refine ⟨t, ht, by rw [word, kxWord, keyTemp_eq], others, next, fun below => ?_, fun last => ?_,
    keeps.st, keeps.dout, keeps.doutValid, keeps.round, keeps.outside⟩
  · cases ht.symm.trans (microStep_kx hp lo below)
    exact ⟨hp, rfl, rfl, rfl⟩
  · cases ht.symm.trans (microStep_kxDone hp last)
    exact ⟨rfl, rfl, rfl, rfl⟩

end

section
/-!
PROOFS. The round layers (R160 to R168). A State is known by its entries `s[r][c]` (R14): each layer's entries are said
once, and the laws of the layers are laws of entries. MixColumns and InvMixColumns act column by column and each by a
circulant matrix, so that one over the other is again a circulant matrix; its first row is evaluated.
-/

namespace Sys2Proof.Machine

@[simp] theorem cell_ofCells (f : Fin 4 → Fin 4 → Byte) (r c : Fin 4) : cell (ofCells f) r c = f r c := by
  fin_cases c <;> fin_cases r <;> rfl

/-- States with the same entries are the same State. -/
theorem block_ext_cell {s t : Block} (h : ∀ r c, cell s r c = cell t r c) : s = t :=
  congrArg ofCells (funext fun r => funext (h r))

/-- Byte `r + 4c` is entry `[r][c]` (R14). -/
theorem byteOf_eq_cell (s : Block) {m : Fin 16} {r c : Fin 4} (h : m.val = r.val + 4 * c.val) :
    byteOf s m = cell s r c := by
  rw [byteOf]
  congr 1 <;> apply Fin.ext <;> dsimp only <;> omega

section Substitution

@[simp] theorem cell_subBytes (s : Block) (r c : Fin 4) : cell (subBytes s) r c = sbox (cell s r c) :=
  cell_ofCells ..

@[simp] theorem cell_invSubBytes (s : Block) (r c : Fin 4) : cell (invSubBytes s) r c = invSbox (cell s r c) :=
  cell_ofCells ..

@[simp] theorem invSubBytes_subBytes (s : Block) : invSubBytes (subBytes s) = s :=
  block_ext_cell fun r c => by rw [cell_invSubBytes, cell_subBytes, invSbox_sbox]

@[simp] theorem subBytes_invSubBytes (s : Block) : subBytes (invSubBytes s) = s :=
  block_ext_cell fun r c => by rw [cell_subBytes, cell_invSubBytes, sbox_invSbox]

end Substitution

section Permutation

@[simp] theorem cell_shiftRows (s : Block) (r c : Fin 4) : cell (shiftRows s) r c = cell s r (c + r) :=
  cell_ofCells ..

@[simp] theorem cell_invShiftRows (s : Block) (r c : Fin 4) : cell (invShiftRows s) r c = cell s r (c - r) :=
  cell_ofCells ..

@[simp] theorem invShiftRows_shiftRows (s : Block) : invShiftRows (shiftRows s) = s :=
  block_ext_cell fun r c => by rw [cell_invShiftRows, cell_shiftRows, sub_add_cancel]

@[simp] theorem shiftRows_invShiftRows (s : Block) : shiftRows (invShiftRows s) = s :=
  block_ext_cell fun r c => by rw [cell_shiftRows, cell_invShiftRows, add_sub_cancel_right]

theorem subBytes_shiftRows (s : Block) : subBytes (shiftRows s) = shiftRows (subBytes s) :=
  block_ext_cell fun r c => by simp only [cell_subBytes, cell_shiftRows]

theorem invSubBytes_invShiftRows (s : Block) : invSubBytes (invShiftRows s) = invShiftRows (invSubBytes s) :=
  block_ext_cell fun r c => by simp only [cell_invSubBytes, cell_invShiftRows]

/-- ShiftRows by byte indices (R162). -/
theorem byteOf_shiftRows (s : Block) {k m : Fin 16}
    (h : m.val = k.val % 4 + 4 * ((k.val / 4 + k.val % 4) % 4)) : byteOf (shiftRows s) k = byteOf s m := by
  rw [byteOf, cell_shiftRows]
  exact (byteOf_eq_cell s h).symm

/-- InvShiftRows by byte indices (R163). -/
theorem byteOf_invShiftRows (s : Block) {k m : Fin 16}
    (h : m.val = k.val % 4 + 4 * ((k.val / 4 + 4 - k.val % 4) % 4)) : byteOf (invShiftRows s) k = byteOf s m := by
  rw [byteOf, cell_invShiftRows]
  refine (byteOf_eq_cell s ?_).symm
  rw [Fin.sub_def]
  dsimp only
  omega

end Permutation

section Diffusion

/-- The circulant matrix with first row `m`, each row the one above shifted right by one, times a column. -/
def circulant (m a : Column) : Column :=
  ⟨rowTimes m.r0 m.r1 m.r2 m.r3 a, rowTimes m.r3 m.r0 m.r1 m.r2 a,
    rowTimes m.r2 m.r3 m.r0 m.r1 a, rowTimes m.r1 m.r2 m.r3 m.r0 a⟩

/-- The first row of R164's matrix. -/
def mixRow : Column := ⟨0x02, 0x03, 0x01, 0x01⟩

/-- The first row of R165's matrix. -/
def invMixRow : Column := ⟨0x0e, 0x0b, 0x0d, 0x09⟩

theorem mixColumn_eq_circulant (a : Column) : mixColumn a = circulant mixRow a := rfl

theorem invMixColumn_eq_circulant (a : Column) : invMixColumn a = circulant invMixRow a := rfl

/-- Row `m` times the four columns of the circulant matrix with first row `n`. -/
def circulantProduct (m n : Column) : Column :=
  let row := rowTimes m.r0 m.r1 m.r2 m.r3
  ⟨row ⟨n.r0, n.r3, n.r2, n.r1⟩, row ⟨n.r1, n.r0, n.r3, n.r2⟩, row ⟨n.r2, n.r1, n.r0, n.r3⟩,
    row ⟨n.r3, n.r2, n.r1, n.r0⟩⟩

/-- The product of circulant matrices is circulant. -/
theorem circulant_circulant (m n a : Column) : circulant m (circulant n a) = circulant (circulantProduct m n) a := by
  simp only [circulant, circulantProduct, rowTimes, gfmul_xor_left, gfmul_xor_right, gfmul_assoc, Column.mk.injEq]
  refine ⟨?_, ?_, ?_, ?_⟩ <;> ac_rfl

/-- The circulant matrix with first row 01 00 00 00 is the identity. -/
theorem circulant_one (a : Column) : circulant ⟨1#8, 0#8, 0#8, 0#8⟩ a = a := by
  simp only [circulant, rowTimes, one_gfmul, zero_gfmul, BitVec.xor_zero, BitVec.zero_xor]

@[simp] theorem invMixColumn_mixColumn (a : Column) : invMixColumn (mixColumn a) = a := by
  have product : circulantProduct invMixRow mixRow = ⟨1#8, 0#8, 0#8, 0#8⟩ := by decide
  rw [invMixColumn_eq_circulant, mixColumn_eq_circulant, circulant_circulant, product, circulant_one]

@[simp] theorem mixColumn_invMixColumn (a : Column) : mixColumn (invMixColumn a) = a := by
  have product : circulantProduct mixRow invMixRow = ⟨1#8, 0#8, 0#8, 0#8⟩ := by decide
  rw [mixColumn_eq_circulant, invMixColumn_eq_circulant, circulant_circulant, product, circulant_one]

@[simp] theorem invMixColumns_mixColumns (s : Block) : invMixColumns (mixColumns s) = s := by
  simp only [invMixColumns, mixColumns, invMixColumn_mixColumn]

@[simp] theorem mixColumns_invMixColumns (s : Block) : mixColumns (invMixColumns s) = s := by
  simp only [mixColumns, invMixColumns, mixColumn_invMixColumn]

@[simp] theorem cell_mixColumns (s : Block) (r c : Fin 4) :
    cell (mixColumns s) r c = rowOf (mixColumn (colOf s c)) r := by
  fin_cases c <;> rfl

@[simp] theorem cell_invMixColumns (s : Block) (r c : Fin 4) :
    cell (invMixColumns s) r c = rowOf (invMixColumn (colOf s c)) r := by
  fin_cases c <;> rfl

/-- The entries 01 of R164's matrix need no product. -/
theorem mixColumn_eq (a : Column) : mixColumn a =
    ⟨gfmul 0x02 a.r0 ^^^ gfmul 0x03 a.r1 ^^^ a.r2 ^^^ a.r3,
      a.r0 ^^^ gfmul 0x02 a.r1 ^^^ gfmul 0x03 a.r2 ^^^ a.r3,
      a.r0 ^^^ a.r1 ^^^ gfmul 0x02 a.r2 ^^^ gfmul 0x03 a.r3,
      gfmul 0x03 a.r0 ^^^ a.r1 ^^^ a.r2 ^^^ gfmul 0x02 a.r3⟩ := by
  have one (b : Byte) : gfmul 0x01 b = b := one_gfmul b
  simp only [mixColumn, rowTimes, one]

end Diffusion

section RoundKey

@[simp] theorem rowOf_xor (a b : Column) (r : Fin 4) : rowOf (a.xor b) r = rowOf a r ^^^ rowOf b r := by
  fin_cases r <;> rfl

theorem colOf_addRoundKey (w : Nat → Word) (r : Nat) (s : Block) (j : Fin 4) :
    colOf (addRoundKey w r s) j = (colOf s j).xor (bytes (w (4 * r + j.val))) := by
  fin_cases j <;> rfl

/-- AddRoundKey by entries (R166). -/
@[simp] theorem cell_addRoundKey (w : Nat → Word) (r : Nat) (s : Block) (k j : Fin 4) :
    cell (addRoundKey w r s) k j = cell s k j ^^^ (w (4 * r + j.val)).extractLsb' (24 - 8 * k.val) 8 := by
  rw [cell, colOf_addRoundKey, rowOf_xor, rowOf_bytes, ← cell]

@[simp] theorem addRoundKey_addRoundKey (w : Nat → Word) (r : Nat) (s : Block) :
    addRoundKey w r (addRoundKey w r s) = s :=
  block_ext_cell fun k j => by
    rw [cell_addRoundKey, cell_addRoundKey, BitVec.xor_assoc, BitVec.xor_self, BitVec.xor_zero]

/-- A round key of words 1, over the zero State: MixColumns spreads the byte 01 over its column. -/
theorem mixColumns_addRoundKey_ne :
    mixColumns (addRoundKey (fun _ => 1#32) 0 Block.zero) ≠ addRoundKey (fun _ => 1#32) 0 (mixColumns Block.zero) := by
  decide

end RoundKey

end Sys2Proof.Machine

open Sys2Proof Sys2Proof.Machine

/-- Settles O25, layer by layer. -/
theorem layersHaveTheirInverses : Obligations.LayersHaveTheirInverses := fun s =>
  ⟨invSubBytes_subBytes s, subBytes_invSubBytes s, invShiftRows_shiftRows s, shiftRows_invShiftRows s,
    invMixColumns_mixColumns s, mixColumns_invMixColumns s, fun w r => addRoundKey_addRoundKey w r s⟩

/-- Settles O26: entry by entry, and by the zero State under a round key of words 1. -/
theorem substitutionCommutesWithPermutation : Obligations.SubstitutionCommutesWithPermutation :=
  ⟨fun s => ⟨subBytes_shiftRows s, invSubBytes_invShiftRows s⟩, _, _, _, mixColumns_addRoundKey_ne⟩

/-- Settles O27 from the entries of each layer; those of a diffusion layer are the rows of its column map. -/
theorem layersFollowTheirByteFormulas : Obligations.LayersFollowTheirByteFormulas := by
  refine ⟨fun s k => ⟨cell_subBytes .., cell_invSubBytes ..⟩,
    fun s k m => ⟨byteOf_shiftRows s, byteOf_invShiftRows s⟩, fun s c => ?_, fun w r s j k => cell_addRoundKey w r s k j⟩
  simp only [cell_mixColumns, mixColumn_eq, cell_invMixColumns]
  exact ⟨rfl, rfl, rfl, rfl, rfl, rfl, rfl, rfl⟩

end

section
/-!
PROOFS. Encrypt and Decrypt under the same round keys undo each other (R202). A decryption round undoes an encryption round
seen through SubBytes and ShiftRows, with which the next round begins, so the folds over the rounds cancel from the inside.
-/

namespace Sys2Proof.Machine

/-- The layers an encryption round begins with (R194, R195). -/
def substitute (s : Block) : Block := shiftRows (subBytes s)

/-- The layers a decryption round begins with (R197, R198). -/
def invSubstitute (s : Block) : Block := invSubBytes (invShiftRows s)

@[simp] theorem invSubstitute_substitute (s : Block) : invSubstitute (substitute s) = s := by
  simp [invSubstitute, substitute]

@[simp] theorem substitute_invSubstitute (s : Block) : substitute (invSubstitute s) = s := by
  simp [invSubstitute, substitute]

theorem encRound_eq (w : Nat → Word) (r : Nat) (s : Block) :
    encRound w r s = addRoundKey w r (mixColumns (substitute s)) := rfl

theorem encFinal_eq (w : Nat → Word) (s : Block) : encFinal w s = addRoundKey w 10 (substitute s) := rfl

theorem decRound_eq (w : Nat → Word) (r : Nat) (s : Block) :
    decRound w r s = invMixColumns (addRoundKey w r (invSubstitute s)) := rfl

theorem decFinal_eq (w : Nat → Word) (s : Block) : decFinal w s = addRoundKey w 0 (invSubstitute s) := rfl

theorem decRound_substitute_encRound (w : Nat → Word) (r : Nat) (s : Block) :
    decRound w r (substitute (encRound w r s)) = substitute s := by
  rw [decRound_eq, invSubstitute_substitute, encRound_eq, addRoundKey_addRoundKey, invMixColumns_mixColumns]

theorem encRound_invSubstitute_decRound (w : Nat → Word) (r : Nat) (s : Block) :
    encRound w r (invSubstitute (decRound w r s)) = invSubstitute s := by
  rw [encRound_eq, substitute_invSubstitute, decRound_eq, mixColumns_invMixColumns, addRoundKey_addRoundKey]

/-- If `undo` takes back one step of `run` seen through `view`, a row of steps is taken back last step first. -/
theorem foldl_reverse_undo {α β : Type} {run undo : α → β → α} {view : α → α}
    (h : ∀ x r, undo (view (run x r)) r = view x) {rs back : List β} (hback : back = rs.reverse) (x : α) :
    back.foldl undo (view (rs.foldl run x)) = view x := by
  subst hback
  induction rs generalizing x with
  | nil => rfl
  | cons r rs ih =>
    rw [List.reverse_cons, List.foldl_concat, List.foldl_cons, ih, h]

theorem decrypt_encrypt (w : Nat → Word) (b : Block) : decrypt w (encrypt w b) = b := by
  have rounds := foldl_reverse_undo (run := fun s r => encRound w r s) (undo := fun s r => decRound w r s)
    (fun s r => decRound_substitute_encRound w r s) (rs := [1, 2, 3, 4, 5, 6, 7, 8, 9])
    (back := [9, 8, 7, 6, 5, 4, 3, 2, 1]) rfl (addRoundKey w 0 b)
  rw [decrypt, encrypt, encFinal_eq, addRoundKey_addRoundKey, decFinal_eq, rounds,
    invSubstitute_substitute, addRoundKey_addRoundKey]

theorem encrypt_decrypt (w : Nat → Word) (b : Block) : encrypt w (decrypt w b) = b := by
  have rounds := foldl_reverse_undo (run := fun s r => decRound w r s) (undo := fun s r => encRound w r s)
    (fun s r => encRound_invSubstitute_decRound w r s) (rs := [9, 8, 7, 6, 5, 4, 3, 2, 1])
    (back := [1, 2, 3, 4, 5, 6, 7, 8, 9]) rfl (addRoundKey w 10 b)
  rw [encrypt, decrypt, decFinal_eq, addRoundKey_addRoundKey, encFinal_eq, rounds,
    substitute_invSubstitute, addRoundKey_addRoundKey]

end Sys2Proof.Machine

open Sys2Proof Sys2Proof.Machine

/-- Settles O24, in both orders. -/
theorem encryptAndDecryptAreInverses : Obligations.EncryptAndDecryptAreInverses := fun w b =>
  ⟨decrypt_encrypt w b, encrypt_decrypt w b⟩

end

section
/-!
PROOFS. The cipher pipeline (R193 to R201): what one micro-step does at each round index, and from that the state after
each of the eleven micro-steps of ENC and DEC.
-/

namespace Sys2Proof.Machine

theorem microStep_of_enc {s : State} (hp : s.phase = .enc) : microStep s = encStep s := by
  rw [microStep, hp]

theorem microStep_of_dec {s : State} (hp : s.phase = .dec) : microStep s = decStep s := by
  rw [microStep, hp]

/-- A run is known by its states one after the other. -/
theorem microSteps_of_run {run : Nat → State} {k : Nat} (h : ∀ n, n < k → microStep (run n) = .next (run (n + 1))) :
    microSteps k (run 0) = .next (run k) := by
  induction k with
  | zero => rfl
  | succ k ih => rw [microSteps_succ, ih fun n hn => h n (by omega), bindNext_next, h k (by omega)]

/-- STATE after `n` of the first ten ENC_STEPs on block `p` (R193, R194). -/
def encRounds (w : Nat → Word) (p : Block) : Nat → Block
  | 0 => p
  | 1 => addRoundKey w 0 p
  | n + 2 => encRound w (n + 1) (encRounds w p (n + 1))

/-- STATE after `n` of the first ten DEC_STEPs on block `c` (R196, R197). -/
def decRounds (w : Nat → Word) (c : Block) : Nat → Block
  | 0 => c
  | 1 => addRoundKey w 10 c
  | n + 2 => decRound w (9 - n) (decRounds w c (n + 1))

/-- The last ENC_STEP ends Encrypt (R191, R195). -/
theorem encrypt_eq_encFinal (w : Nat → Word) (p : Block) : encrypt w p = encFinal w (encRounds w p 10) := rfl

/-- The last DEC_STEP ends Decrypt (R192, R198). -/
theorem decrypt_eq_decFinal (w : Nat → Word) (c : Block) : decrypt w c = decFinal w (decRounds w c 10) := rfl

/-- The machine `n` micro-steps after it accepted ENC in `s`. -/
def encRun (s : State) (n : Nat) : State :=
  nextRound (encRounds (rkWord s) (operandBlock s) n) (BitVec.ofNat 4 n) (startCipher .enc 0#4 s)

/-- The machine `n` micro-steps after it accepted DEC in `s`. -/
def decRun (s : State) (n : Nat) : State :=
  nextRound (decRounds (rkWord s) (operandBlock s) n) (BitVec.ofNat 4 (10 - n)) (startCipher .dec 10#4 s)

theorem encRun_round_toNat (s : State) {n : Nat} (h : n ≤ 10) : (encRun s n).round.toNat = n := by
  rw [encRun, nextRound_round, BitVec.toNat_ofNat]
  omega

theorem decRun_round_toNat (s : State) {n : Nat} (h : n ≤ 10) : (decRun s n).round.toNat = 10 - n := by
  rw [decRun, nextRound_round, BitVec.toNat_ofNat]
  omega

theorem microStep_encRun (s : State) (n : Nat) (h : n < 10) : microStep (encRun s n) = .next (encRun s (n + 1)) := by
  have round := encRun_round_toNat s h.le
  rw [microStep_of_enc rfl]
  cases n with
  | zero => exact encStep_first round
  | succ n =>
    rw [encStep_mid (by omega) (by omega), round]
    have next : (encRun s (n + 1)).round + 1#4 = BitVec.ofNat 4 (n + 2) := (BitVec.ofNat_add ..).symm
    rw [next]
    rfl

theorem microStep_decRun (s : State) (n : Nat) (h : n < 10) : microStep (decRun s n) = .next (decRun s (n + 1)) := by
  have round := decRun_round_toNat s h.le
  rw [microStep_of_dec rfl]
  cases n with
  | zero => exact decStep_first round
  | succ n =>
    rw [decStep_mid (by omega) (by omega), round]
    have next : (decRun s (n + 1)).round - 1#4 = BitVec.ofNat 4 (10 - (n + 2)) := by
      apply BitVec.eq_of_toNat_eq
      rw [round_pred (by omega), round, BitVec.toNat_ofNat]
      omega
    rw [next, show 10 - (n + 1) = 9 - n by omega]
    rfl

/-- The eleven micro-steps of ENC (R193 to R195). -/
theorem microSteps_startCipher_enc (s : State) : microSteps 11 (startCipher .enc 0#4 s) =
    .next (finishCipher (encrypt (rkWord s) (bytes16 s.operand)) (encRun s 10)) := by
  have rounds : microSteps 10 (startCipher .enc 0#4 s) = .next (encRun s 10) :=
    microSteps_of_run (run := encRun s) (microStep_encRun s)
  rw [microSteps_succ, rounds, bindNext_next, microStep_of_enc rfl, encStep_last (encRun_round_toNat s le_rfl),
    encrypt_eq_encFinal]
  rfl

/-- The eleven micro-steps of DEC (R196 to R198). -/
theorem microSteps_startCipher_dec (s : State) : microSteps 11 (startCipher .dec 10#4 s) =
    .next (finishCipher (decrypt (rkWord s) (bytes16 s.operand)) (decRun s 10)) := by
  have rounds : microSteps 10 (startCipher .dec 10#4 s) = .next (decRun s 10) :=
    microSteps_of_run (run := decRun s) (microStep_decRun s)
  rw [microSteps_succ, rounds, bindNext_next, microStep_of_dec rfl, decStep_last (decRun_round_toNat s le_rfl),
    decrypt_eq_decFinal]
  rfl

/-- KEYEXP run to its end leaves the expansion of its operand in the store, for whatever comes next (R200, R222). -/
theorem keyexp_loads (s : State) : ∃ b, (∀ next : State → Result,
      bindNext (exec (.keyexp 16#5) s) (fun a => bindNext (microSteps 40 a) next) = next b) ∧
    (∀ i, i < 44 → rkWord b i = keyWord s.operand i) ∧ b.keyValid = true := by
  obtain ⟨b, expansion, words, keyValid, -⟩ := keyExpansionFillsTheStore s
  refine ⟨b, fun next => ?_, fun i hi => (words i hi).2, keyValid⟩
  rw [← bindNext_assoc, expansion, bindNext_next]

theorem addRoundKey_congr {w w' : Nat → Word} (h : ∀ i, i < 44 → w i = w' i) {r : Nat} (hr : r ≤ 10) :
    addRoundKey w r = addRoundKey w' r := by
  funext s
  rw [addRoundKey, addRoundKey, h _ (by omega), h _ (by omega), h _ (by omega), h _ (by omega)]

/-- Encrypt reads the 44 words of the expansion and no other (R56, R191). -/
theorem encrypt_congr {w w' : Nat → Word} (h : ∀ i, i < 44 → w i = w' i) : encrypt w = encrypt w' := by
  have round (s : Block) (r : Nat) (hr : r ∈ [1, 2, 3, 4, 5, 6, 7, 8, 9]) : encRound w r s = encRound w' r s := by
    have bound : ∀ r ∈ [1, 2, 3, 4, 5, 6, 7, 8, 9], r ≤ 10 := by decide
    rw [encRound, encRound, addRoundKey_congr h (bound r hr)]
  funext p
  rw [encrypt, encrypt, List.foldl_ext _ _ _ round, encFinal, encFinal, addRoundKey_congr h (by decide : 0 ≤ 10),
    addRoundKey_congr h (le_refl 10)]

/-- Nor does Decrypt (R56, R192). -/
theorem decrypt_congr {w w' : Nat → Word} (h : ∀ i, i < 44 → w i = w' i) : decrypt w = decrypt w' := by
  have round (s : Block) (r : Nat) (hr : r ∈ [9, 8, 7, 6, 5, 4, 3, 2, 1]) : decRound w r s = decRound w' r s := by
    have bound : ∀ r ∈ [9, 8, 7, 6, 5, 4, 3, 2, 1], r ≤ 10 := by decide
    rw [decRound, decRound, addRoundKey_congr h (bound r hr)]
  funext c
  rw [decrypt, decrypt, List.foldl_ext _ _ _ round, decFinal, decFinal, addRoundKey_congr h (by decide : 0 ≤ 10),
    addRoundKey_congr h (le_refl 10)]

end Sys2Proof.Machine

open Sys2Proof Sys2Proof.Machine

/-- Settles O21: the eleven micro-steps end with `finishCipher`, and the frame is that of the acceptance. -/
theorem microStepsComputeEncryptAndDecrypt : Obligations.MicroStepsComputeEncryptAndDecrypt := by
  intro s hk
  rw [exec_enc_16 hk, exec_dec_16 hk, bindNext_next, bindNext_next, microSteps_startCipher_enc,
    microSteps_startCipher_dec]
  exact ⟨⟨_, rfl, rfl, rfl, rfl, rfl, rfl, rfl, hk, by constructor <;> rfl⟩,
    ⟨_, rfl, rfl, rfl, rfl, rfl, rfl, rfl, hk, by constructor <;> rfl⟩⟩

/-- Settles O22: KEYEXP fills the store with the words of `keyWord key` (O19), and the block's command reads those alone. -/
theorem keyThenBlockGivesTheCipherOfTheBlock : Obligations.KeyThenBlockGivesTheCipherOfTheBlock := by
  intro s key block
  obtain ⟨b, loaded, words, keyValid⟩ := keyexp_loads { s with operand := key }
  obtain ⟨⟨e, he, encDout, -⟩, d, hd, decDout, -⟩ :=
    microStepsComputeEncryptAndDecrypt { b with operand := block } keyValid
  have stored (i : Nat) (hi : i < 44) : rkWord { b with operand := block } i = keyWord key i :=
    (congrFun (rkWord_congr rfl) i).trans (words i hi)
  refine ⟨⟨e, (loaded _).trans he, ?_⟩, d, (loaded _).trans hd, ?_⟩
  · rw [encDout, encrypt_congr stored]
  · rw [decDout, decrypt_congr stored]

/-- Settles O17: ENC_STEP at each of its three ranges of ROUND. -/
theorem encStepAppliesOneRound : Obligations.EncStepAppliesOneRound := by
  intro s hp
  rw [microStep_of_enc hp]
  refine ⟨fun first => ⟨_, encStep_first first, rfl, rfl, hp, rfl, rfl, rfl, rfl⟩, ?_,
    fun last => ⟨_, encStep_last last, rfl, rfl, rfl, rfl, rfl, rfl, rfl⟩⟩
  rintro r lo hi rfl
  exact ⟨_, encStep_mid lo hi, rfl, round_succ hi, hp, rfl, rfl, rfl, rfl⟩

/-- Settles O18: DEC_STEP at each of its three ranges of ROUND. -/
theorem decStepAppliesOneInverseRound : Obligations.DecStepAppliesOneInverseRound := by
  intro s hp
  rw [microStep_of_dec hp]
  refine ⟨fun first => ⟨_, decStep_first first, rfl, rfl, hp, rfl, rfl, rfl, rfl⟩, ?_,
    fun last => ⟨_, decStep_last last, rfl, rfl, rfl, rfl, rfl, rfl, rfl⟩⟩
  rintro r lo hi rfl
  exact ⟨_, decStep_mid lo hi, rfl, round_pred lo, hp, rfl, rfl, rfl, rfl⟩

end

section
/-!
PROOFS. How long a command runs (R200, R204, R269): WIDX and ROUND tell how many micro-steps are left, and each micro-step
takes one away.
-/

namespace Sys2Proof.Machine

/-- The micro-steps the running command still takes, from the register its phase counts with (R200). -/
def stepsLeft (s : State) : Nat :=
  match s.phase with
  | .idle => 0
  | .kx => 44 - s.widx.toNat
  | .enc => 11 - s.round.toNat
  | .dec => s.round.toNat + 1

theorem stepsLeft_of_idle {s : State} (hp : s.phase = .idle) : stepsLeft s = 0 := by rw [stepsLeft, hp]

theorem stepsLeft_of_kx {s : State} (hp : s.phase = .kx) : stepsLeft s = 44 - s.widx.toNat := by rw [stepsLeft, hp]

theorem stepsLeft_of_enc {s : State} (hp : s.phase = .enc) : stepsLeft s = 11 - s.round.toNat := by
  rw [stepsLeft, hp]

theorem stepsLeft_of_dec {s : State} (hp : s.phase = .dec) : stepsLeft s = s.round.toNat + 1 := by
  rw [stepsLeft, hp]

/-- What of the invariant keeps the sequencer going: BUSY and PHASE agree (R26), and WIDX and ROUND are in range where
they count (R28, R29). -/
structure Sequencing (s : State) : Prop where
  busy_iff : s.busy = true ↔ s.phase ≠ .idle
  widx_range : s.phase = .kx → 4 ≤ s.widx.toNat ∧ s.widx.toNat ≤ 43
  round_range : s.phase = .enc ∨ s.phase = .dec → s.round.toNat ≤ 10

theorem ControlInv.sequencing {s : State} (h : ControlInv s) : Sequencing s :=
  ⟨h.busy_iff, h.widx_range, h.round_range⟩

/-- An idle engine counts nothing. -/
theorem sequencing_of_idle {s : State} (hp : s.phase = .idle) (hb : s.busy = false) : Sequencing s :=
  ⟨by simp [hp, hb], by simp [hp], by simp [hp]⟩

/-- With the sequencer in range the steps left are none exactly when the engine is idle. -/
theorem Sequencing.stepsLeft_eq_zero_iff {s : State} (h : Sequencing s) : stepsLeft s = 0 ↔ s.phase = .idle := by
  cases hp : s.phase with
  | idle => simp [stepsLeft_of_idle hp]
  | kx =>
    have := h.widx_range hp
    simp only [stepsLeft_of_kx hp, reduceCtorEq, iff_false]
    omega
  | enc =>
    have := h.round_range (.inl hp)
    simp only [stepsLeft_of_enc hp, reduceCtorEq, iff_false]
    omega
  | dec => simp [stepsLeft_of_dec hp]

/-- KEYEXP, the longest command, has 40 micro-steps (R200). -/
theorem Sequencing.stepsLeft_le {s : State} (h : Sequencing s) : stepsLeft s ≤ 40 := by
  cases hp : s.phase with
  | idle => simp [stepsLeft_of_idle hp]
  | kx =>
    have := h.widx_range hp
    rw [stepsLeft_of_kx hp]
    omega
  | enc =>
    rw [stepsLeft_of_enc hp]
    omega
  | dec =>
    have := h.round_range (.inr hp)
    rw [stepsLeft_of_dec hp]
    omega

/-- A micro-step keeps the sequencer in range. -/
theorem MicroCase.sequencing {s t : State} (c : MicroCase s t) (h : Sequencing s) : Sequencing t := by
  cases c with
  | idle => exact h
  | kx hp lo hi => exact { h with widx_range := fun _ => by rw [deriveWord_widx, widx_succ hi.le]; omega }
  | kxDone | encLast | decLast => exact sequencing_of_idle rfl rfl
  | encFirst | decFirst => exact { h with round_range := fun _ => by simp }
  | encRound hp lo hi => exact { h with round_range := fun _ => by rw [nextRound_round, round_succ hi]; omega }
  | decRound hp lo hi => exact { h with round_range := fun _ => by rw [nextRound_round, round_pred lo]; omega }

/-- A micro-step takes one away from the steps left. -/
theorem MicroCase.stepsLeft_succ {s t : State} (c : MicroCase s t) (hp : s.phase ≠ .idle) :
    stepsLeft t + 1 = stepsLeft s := by
  cases c with
  | idle hi => exact absurd hi hp
  | kx hp lo hi =>
    simp only [stepsLeft_of_kx, deriveWord_phase, hp, deriveWord_widx, widx_succ hi.le]
    omega
  | kxDone hp hw => rw [stepsLeft_of_kx hp, stepsLeft_of_idle rfl, hw]
  | encFirst hp hr => simp [stepsLeft_of_enc, hp, hr]
  | encRound hp lo hi =>
    simp only [stepsLeft_of_enc, nextRound_phase, hp, nextRound_round, round_succ hi]
    omega
  | encLast hp hr => rw [stepsLeft_of_enc hp, stepsLeft_of_idle rfl, hr]
  | decFirst hp hr => simp [stepsLeft_of_dec, hp, hr]
  | decRound hp lo hi =>
    simp only [stepsLeft_of_dec, nextRound_phase, hp, nextRound_round, round_pred lo]
    omega
  | decLast hp hr => rw [stepsLeft_of_dec hp, stepsLeft_of_idle rfl, hr]

/-- As many micro-steps as are left can be taken, and each takes one away. -/
theorem Sequencing.microSteps_next {s : State} (h : Sequencing s) {n : Nat} (hn : n ≤ stepsLeft s) :
    ∃ t, microSteps n s = .next t ∧ Sequencing t ∧ stepsLeft t + n = stepsLeft s := by
  induction n with
  | zero => exact ⟨s, rfl, h, rfl⟩
  | succ n ih =>
    obtain ⟨t, ht, range, left⟩ := ih (by omega)
    have running : t.phase ≠ .idle := by
      rw [Ne, ← range.stepsLeft_eq_zero_iff]
      omega
    obtain ⟨u, hu, c⟩ := microStep_cases range.widx_range range.round_range
    have one := c.stepsLeft_succ running
    exact ⟨u, by rw [microSteps_succ, ht, bindNext_next, hu], c.sequencing range, by omega⟩

/-- With steps left the engine is busy. -/
theorem Sequencing.busy_of_stepsLeft_ne_zero {s : State} (h : Sequencing s) (left : stepsLeft s ≠ 0) : s.busy = true :=
  h.busy_iff.2 (mt h.stepsLeft_eq_zero_iff.2 left)

/-- With none left it is idle. -/
theorem Sequencing.idle_of_stepsLeft_eq_zero {s : State} (h : Sequencing s) (left : stepsLeft s = 0) :
    s.busy = false ∧ s.phase = .idle := by
  have idle := h.stepsLeft_eq_zero_iff.1 left
  exact ⟨by simpa [idle] using h.busy_iff, idle⟩

/-- The last of the steps left completes the command, with ERR 0 (R17). -/
theorem Sequencing.completes {s : State} (h : Sequencing s) (hb : s.busy = true) :
    ∃ t, microSteps (stepsLeft s) s = .next t ∧ t.busy = false ∧ t.phase = .idle ∧ t.err = 0#4 := by
  obtain ⟨n, hn⟩ := Nat.exists_eq_succ_of_ne_zero (mt h.stepsLeft_eq_zero_iff.1 (h.busy_iff.1 hb))
  obtain ⟨t, ht, range, left⟩ := h.microSteps_next (n := n) (by omega)
  have running : t.phase ≠ .idle := by
    rw [Ne, ← range.stepsLeft_eq_zero_iff]
    omega
  obtain ⟨u, hu, c⟩ := microStep_cases range.widx_range range.round_range
  have one := c.stepsLeft_succ running
  have idle : u.phase = .idle := (c.sequencing range).stepsLeft_eq_zero_iff.1 (by omega)
  refine ⟨u, by rw [hn, microSteps_succ, ht, bindNext_next, hu], ?_⟩
  rcases c.err running with ⟨same, -⟩ | ⟨-, busy, err⟩
  · exact absurd (same.symm.trans idle) running
  · exact ⟨busy, idle, err⟩

/-- An acceptance in an idle engine leaves the sequencer at the start of the command, or idle. -/
theorem ExecCase.sequencing {i : Instr} {s t : State} (c : ExecCase i s t) (hb : s.busy = false)
    (hp : s.phase = .idle) : Sequencing t := by
  cases c with
  | error => exact sequencing_of_idle hp hb
  | keyexp => exact ⟨by simp, by simp, by simp⟩
  | enc | dec => exact ⟨by simp, by simp, by simp⟩
  | rkrd => exact sequencing_of_idle rfl rfl

/-- A command in error takes no micro-steps (R269). -/
theorem commandMicroSteps_of_error {i : Instr} {s : State} {e : ErrKind} (h : acceptError i s = some e) :
    commandMicroSteps i s = 0 := by
  simp only [commandMicroSteps, h]

/-- After the acceptance in an idle engine the steps left are those of the command (R200). -/
theorem ExecCase.stepsLeft_eq {i : Instr} {s t : State} (c : ExecCase i s t) (hp : s.phase = .idle) :
    stepsLeft t = commandMicroSteps i s := by
  cases c with
  | error e h => exact (stepsLeft_of_idle hp).trans (commandMicroSteps_of_error h).symm
  | keyexp hi => subst hi; rfl
  | enc hi hk =>
    subst hi
    rw [stepsLeft_of_enc (startCipher_phase ..)]
    simp [commandMicroSteps, acceptError, requestError, lenIs16, hk]
  | dec hi hk =>
    subst hi
    rw [stepsLeft_of_dec (startCipher_phase ..)]
    simp [commandMicroSteps, acceptError, requestError, lenIs16, hk]
  | rkrd r hi =>
    subst hi
    rw [stepsLeft_of_idle rfl, commandMicroSteps]
    split <;> rfl

end Sys2Proof.Machine

open Sys2Proof Sys2Proof.Machine

/-- Settles O23: the count of the command is the number of steps left after its acceptance. -/
theorem stepCountsAreFixed : Obligations.StepCountsAreFixed := by
  intro s t i hb hp ht
  have c := exec_eq_next ht
  have start := c.sequencing hb hp
  rw [← c.stepsLeft_eq hp]
  refine ⟨fun n hn => ?_, ?_⟩
  · obtain ⟨u, hu, range, left⟩ := start.microSteps_next hn.le
    exact ⟨u, hu, range.busy_of_stepsLeft_ne_zero (by omega)⟩
  · obtain ⟨u, hu, range, left⟩ := start.microSteps_next le_rfl
    exact ⟨u, hu, range.idle_of_stepsLeft_eq_zero (by omega)⟩

/-- Settles O40: the steps left are at least one, at most 40, and the last of them completes. -/
theorem everyAcceptedCommandCompletes : Obligations.EveryAcceptedCommandCompletes := by
  intro s h hb
  have range := h.control.sequencing
  obtain ⟨t, ht, completed⟩ := range.completes hb
  have left : stepsLeft s ≠ 0 := mt range.stepsLeft_eq_zero_iff.1 (range.busy_iff.1 hb)
  exact ⟨stepsLeft s, t, Nat.one_le_iff_ne_zero.2 left, range.stepsLeft_le, ht, completed⟩

end

section
/-!
PROOFS. The commands at their acceptance (R220 to R227): what each writes and what each leaves alone.
-/

namespace Sys2Proof.Machine

/-- Word `j` of a round key is word `4r + j` of the expansion (R146). -/
theorem roundKey_word (w : Nat → Word) (r : Nat) {j : Nat} (hj : j < 4) :
    (roundKey w r).extractLsb' (96 - 32 * j) 32 = w (4 * r + j) := by
  obtain ⟨h0, h1, h2, h3⟩ := parts_of_append_four (w (4 * r)) (w (4 * r + 1)) (w (4 * r + 2)) (w (4 * r + 3))
  match j with
  | 0 => exact h0
  | 1 => exact h1
  | 2 => exact h2
  | 3 => exact h3

/-- The expansion begins with the key's own four words, the first most significant (R141). -/
theorem keyWord_of_lt_four (key : Quad) {i : Nat} (hi : i < 4) :
    keyWord key i = key.extractLsb' (96 - 32 * i) 32 := by
  match i with
  | 0 | 1 | 2 | 3 => exact word_bytes _

/-- RKRD with RIDX above 10 is in error in every engine (R226, R266). -/
theorem acceptError_rkrd_beyond {s : State} {r : BitVec 5} (hr : 10 < r.toNat) :
    acceptError (.rkrd r) s = some .illegalCommand := by
  simp [acceptError, requestError, ridxInRange, Nat.not_le.2 hr]

/-- RKRD with RIDX at most 10 needs a key (R226). -/
theorem acceptError_rkrd_no_key {s : State} {r : BitVec 5} (hh : s.hasRkrd = true) (hr : r.toNat ≤ 10)
    (hk : s.keyValid = false) : acceptError (.rkrd r) s = some .keyNotLoaded := by
  simp [acceptError, requestError, ridxInRange, needsKey, hh, hr, hk]

/-- The acceptance of KEYEXP leaves what no key expansion touches (R221). -/
theorem exec_keyexp_keeps {len : BitVec 5} {s t : State} (h : exec (.keyexp len) s = .next t) : KeyexpKeeps s t := by
  have outside := exec_sameOutside h
  cases exec_eq_next h with
  | error => exact ⟨rfl, rfl, rfl, rfl, outside⟩
  | keyexp => exact startKeyExpansion_keeps s
  | enc hi | dec hi | rkrd _ hi => nomatch hi

/-- Only KEYEXP's acceptance writes WIDX (R29). -/
theorem ExecCase.widx {i : Instr} {s t : State} (c : ExecCase i s t) (hi : ∀ len, i ≠ .keyexp len) :
    t.widx = s.widx := by
  cases c with
  | keyexp h => exact absurd h (hi _)
  | error | enc | dec | rkrd => rfl

/-- Only a KX_STEP moves WIDX (R29, R147). -/
theorem MicroCase.widx {s t : State} (c : MicroCase s t) (hp : s.phase ≠ .kx) : t.widx = s.widx := by
  cases c with
  | kx h | kxDone h => exact absurd h hp
  | idle | encFirst | encRound | encLast | decFirst | decRound | decLast => rfl

/-- What ENC and DEC leave alone from acceptance to completion (R221). -/
structure CipherKeeps (s t : State) : Prop where
  rk : t.rk = s.rk
  keyValid : t.keyValid = s.keyValid
  widx : t.widx = s.widx
  outside : SameOutside s t

theorem exec_cipherKeeps {i : Instr} {s t : State} (hi : ∀ len, i ≠ .keyexp len) (h : exec i s = .next t) :
    CipherKeeps s t :=
  have c := exec_eq_next h
  ⟨(c.roundKeys hi).1, (c.roundKeys hi).2, c.widx hi, exec_sameOutside h⟩

theorem microStep_cipherKeeps {s t : State} (hp : s.phase ≠ .kx) (h : microStep s = .next t) : CipherKeeps s t :=
  have c := microStep_eq_next h
  ⟨(c.roundKeys hp).1, (c.roundKeys hp).2, c.widx hp, microStep_sameOutside h⟩

/-- In an idle engine RKRD, completed or in error, writes DOUT, DOUT_VALID and ERR alone (R221, R226). -/
theorem exec_rkrd_writes {r : BitVec 5} {s t : State} (hb : s.busy = false) (hp : s.phase = .idle)
    (h : exec (.rkrd r) s = .next t) : t = { s with dout := t.dout, doutValid := t.doutValid, err := t.err } := by
  cases exec_eq_next h with
  | error => rfl
  | keyexp hi | enc hi | dec hi => nomatch hi
  | rkrd => simp only [complete, writeDout, hb, hp]

end Sys2Proof.Machine

open Sys2Proof Sys2Proof.Machine

/-- Settles O6: the listed words are those the decoder rejects, and RIDX above 10 is an error of the request. -/
theorem illegalCommandWritesOnlyErr : Obligations.IllegalCommandWritesOnlyErr := by
  refine ⟨fun s listed => ?_, fun s r hr => exec_of_acceptError (acceptError_rkrd_beyond hr)⟩
  obtain ⟨e, rejected⟩ := decode_error_iff.2 listed
  exact ⟨false, accept_of_illegal rejected⟩

/-- Settles O11: the first four words of the expansion are the operand's, and the rest is the frame of KEYEXP. -/
theorem keyexpAcceptanceLoadsTheKey : Obligations.KeyexpAcceptanceLoadsTheKey := by
  intro s
  have keeps := startKeyExpansion_keeps s
  refine ⟨_, exec_keyexp_16 s, fun i hi => ?_, fun i hi => ?_, rfl, rfl, rfl, rfl, keeps.st, keeps.dout,
    keeps.doutValid, startKeyExpansion_err s, keeps.round, keeps.outside⟩
  · rw [(rkHolds_startKeyExpansion s i hi).2, keyWord_of_lt_four _ hi]
  · exact rk_storeKey_high _ s hi

/-- Settles O12: STATE is the operand's bytes, and the rest of `startCipher` is read off. -/
theorem blockCommandAcceptanceLoadsTheBlock : Obligations.BlockCommandAcceptanceLoadsTheBlock := by
  intro s hk
  exact ⟨⟨_, exec_enc_16 hk, byteOf_bytes16 s.operand, rfl, rfl, rfl, rfl, rfl, rfl, rfl, rfl, rfl,
      exec_sameOutside (exec_enc_16 hk)⟩,
    ⟨_, exec_dec_16 hk, byteOf_bytes16 s.operand, rfl, rfl, rfl, rfl, rfl, rfl, rfl, rfl, rfl,
      exec_sameOutside (exec_dec_16 hk)⟩⟩

/-- Settles O13: its two errors in their order, then the round key by its four words. -/
theorem rkrdReadsOneRoundKey : Obligations.RkrdReadsOneRoundKey := by
  intro s r hh
  refine ⟨fun hr => exec_of_acceptError (acceptError_rkrd_beyond hr),
    fun hr hk => exec_of_acceptError (acceptError_rkrd_no_key hh hr hk), fun hr hk => ?_⟩
  have read := exec_rkrd_in_range hr hh hk
  exact ⟨_, _, read, rfl, fun j hj => roundKey_word (rkWord s) r.toNat hj, rfl, rfl, rfl, rfl, rfl, rfl, rfl, rfl, rfl,
    exec_sameOutside read⟩

/-- Settles O14: the frames of KEYEXP, of ENC and DEC, of RKRD, and of an error. -/
theorem commandsLeaveTheRestAlone : Obligations.CommandsLeaveTheRestAlone := by
  refine ⟨fun s t len h => ?_, fun s t len h => ?_, fun s t r hb hp h => exec_rkrd_writes hb hp h,
    fun s i e he => exec_of_acceptError he⟩
  · have keeps : KeyexpKeeps s t := h.elim exec_keyexp_keeps fun ⟨hp, hm⟩ => microStep_keeps_of_kx hp hm
    exact ⟨keeps.st, keeps.dout, keeps.doutValid, keeps.round, keeps.outside⟩
  · have keeps : CipherKeeps s t := by
      rcases h with h | h | ⟨hp, h⟩
      · exact exec_cipherKeeps (by simp) h
      · exact exec_cipherKeeps (by simp) h
      · exact microStep_cipherKeeps (by rcases hp with hp | hp <;> simp [hp]) h
    exact ⟨keeps.rk, keeps.keyValid, keeps.widx, keeps.outside⟩

/-- Settles O20: below 40 micro-steps the expansion is under way, with the flags of its acceptance. -/
theorem statusDuringKeyExpansion : Obligations.StatusDuringKeyExpansion := by
  intro s n hn
  obtain ⟨t, ht, underWay⟩ := expanding_after_microSteps s (n := n) (by omega)
  refine ⟨t, by rw [exec_keyexp_16, bindNext_next, ht], (status_getLsbD t 0).trans underWay.busy,
    (status_getLsbD t 1).trans underWay.keyValid, (status_getLsbD t 2).trans underWay.keeps.doutValid,
    (status_err t).trans underWay.err, ?_⟩
  rw [cmdReady, underWay.busy]
  rfl

end

section
/-!
PROOFS. The host's line in its turn: its reads, and an offer held while a command runs (R228 to R230).
-/

namespace Sys2Proof.Machine

/-- A line of the host that can run, in its turn and with no offer to accept, is the whole step. -/
theorem step_of_hostLine {s : State} {l : HostLine} {rest : List HostLine} {turns : List Agent} (hn : s.rstN = true)
    (ho : offerReady s = false) (hturn : s.schedule = .host :: turns) (hj : s.job = none) (hs : s.script = l :: rest)
    (enabled : hostEnabled s = true) : step s = hostLine l { s with script := rest, schedule := turns } := by
  have next : nextTurn s = { s with schedule := turns } := by rw [nextTurn, hturn, List.tail_cons]
  have goes : agentEnabled .host (nextTurn s) = true := enabled
  rw [step_of_turn hn ho, hturn, List.head?_cons, chooseAgent_turn goes, next]
  exact hostStep_of_line (s := { s with schedule := turns }) hj hs

/-- A read never waits (R229, R230), nor does taking an offer back (R228). -/
theorem hostEnabled_of_line {s : State} {l : HostLine} {rest : List HostLine} (hj : s.job = none)
    (hs : s.script = l :: rest) (hl : l = .rdstat ∨ l = .rdout ∨ l = .withdraw) : hostEnabled s = true := by
  rcases hl with rfl | rfl | rfl <;> simp only [hostEnabled, hj, hs]

/-- With BUSY = 1 no offer is ready to be accepted (R71). -/
theorem offerReady_of_busy {s : State} (hb : s.busy = true) : offerReady s = false := by
  simp [offerReady, cmdReady, hb]

theorem offerReady_of_no_offer {s : State} (hv : s.cmdValid = false) : offerReady s = false := by
  simp [offerReady, hv]

/-- RDOUT while a command runs (R65, R230). -/
theorem rdout_busy {s : State} (hb : s.busy = true) :
    rdout s = .next (record (.dout (Config.busyDout s.draws)) { s with draws := s.draws + 1 }) := by
  simp [rdout, readDout, hb]

/-- RDOUT before any result (R230, R280). -/
theorem rdout_unwritten {s : State} (hb : s.busy = false) (hv : s.doutValid = false) :
    rdout s = .fault .readUnwrittenDOUT := by
  rw [rdout, readDout_unwritten hb hv, mapNext_fault]

/-- RDOUT with a result there (R230). -/
theorem rdout_valid {s : State} {v : Quad} (hb : s.busy = false) (hv : s.doutValid = true) (hd : s.dout = some v) :
    rdout s = .next (record (.dout v) s) := by
  rw [rdout, readDout_valid hb hv hd, mapNext_next]

/-- A due read of DOUT before any result ends the step that would accept (R230, R280). -/
theorem hostLook_rdout_unwritten {s : State} {rest : List HostLine} (hj : s.job = none)
    (hs : s.script = .rdout :: rest) (hb : s.busy = false) (hv : s.doutValid = false) :
    hostLook (some .host) s = .fault .readUnwrittenDOUT := by
  rw [hostLook_of_read (by simp [readIsNext, hj, hs]), hostStep_of_line hj hs]
  exact rdout_unwritten (s := { s with script := rest }) hb hv

/-- A read of DOUT leaves the port. -/
theorem readDout_port {s : State} {p : State × Quad} (h : readDout s = .next p) :
    p.1.cmdValid = s.cmdValid ∧ p.1.cmd = s.cmd ∧ p.1.operand = s.operand := by
  obtain ⟨t, v⟩ := p
  rcases readDout_eq_next h with ⟨-, rfl, -⟩ | ⟨-, -, rfl, -⟩ <;> exact ⟨rfl, rfl, rfl⟩

/-- Beside an offer at the port of a busy engine a call can only return from its range check (R240). -/
theorem jobStep_beside_offer {j : Job} {s : State} (hv : s.cmdValid = true) (enabled : jobEnabled j s = true) :
    jobStep j s = .next (returnCall (.error (errCode .byteRange)) s) := by
  obtain ⟨c, g⟩ := j
  cases g with
  | start =>
    have range : outOfRange (callBytes c) = true := by simpa [jobEnabled, hv] using enabled
    simp [jobStep, startCall, range]
  | loading | running | reading => simp [jobEnabled, hv] at enabled

/-- A step of the host beside an offer at the port leaves it there, unless it takes the offer back (R228). -/
theorem hostStep_beside_offer {s t : State} (hv : s.cmdValid = true) (enabled : hostEnabled s = true)
    (h : hostStep s = .next t) :
    (t.cmdValid = true ∧ t.cmd = s.cmd ∧ t.operand = s.operand) ∨
      (s.job = none ∧ ∃ rest, s.script = .withdraw :: rest) := by
  cases hj : s.job with
  | some j =>
    simp only [hostStep, hj] at h
    rw [jobStep_beside_offer hv (by simpa only [hostEnabled, hj] using enabled)] at h
    cases h
    exact .inl ⟨hv, rfl, rfl⟩
  | none =>
    cases hs : s.script with
    | nil => simp [hostEnabled, hj, hs] at enabled
    | cons l rest =>
      rw [hostStep_of_line hj hs] at h
      cases l with
      | withdraw => exact .inr ⟨rfl, rest, rfl⟩
      | offer => simp [hostEnabled, hj, hs, hv] at enabled
      | rdout =>
        obtain ⟨p, hp, rfl⟩ := mapNext_eq_next.1 h
        obtain ⟨valid, cmd, operand⟩ := readDout_port hp
        exact .inl ⟨valid.trans hv, cmd, operand⟩
      | hold | wait | rdstat | call =>
        cases h
        exact .inl ⟨hv, rfl, rfl⟩

/-- The outside does not drive the command port. -/
theorem outsideStep_port (s : State) :
    (outsideStep s).cmdValid = s.cmdValid ∧ (outsideStep s).cmd = s.cmd ∧ (outsideStep s).operand = s.operand := by
  unfold outsideStep
  split <;> exact ⟨rfl, rfl, rfl⟩

/-- An agent's step leaves an offer at the port, unless it is the host taking it back. -/
theorem agentStep_beside_offer {turn : Option Agent} {s t : State} (hv : s.cmdValid = true)
    (h : agentStep (chooseAgent turn s) s = .next t) :
    (t.cmdValid = true ∧ t.cmd = s.cmd ∧ t.operand = s.operand) ∨
      (s.job = none ∧ ∃ rest, s.script = .withdraw :: rest) := by
  revert h
  refine agentStep_cases (P := fun o => o = .next t → _) ?engine ?host ?outside ?idle
  case engine =>
    intro _ h
    have same := microStep_sameOutside h
    exact .inl ⟨same.cmdValid.trans hv, same.cmd, same.operand⟩
  case host => exact fun enabled h => hostStep_beside_offer hv enabled h
  case outside =>
    rintro ⟨⟩
    obtain ⟨valid, cmd, operand⟩ := outsideStep_port s
    exact .inl ⟨valid.trans hv, cmd, operand⟩
  case idle => rintro ⟨⟩; exact .inl ⟨hv, rfl, rfl⟩

/-- STATUS in reset is 0x00 (R291). -/
theorem status_of_reset {s : State} (e : SameEngine State.reset s) : status s = 0x00#8 := by
  rw [status, e.err, e.doutValid, e.keyValid, e.busy]
  rfl

/-- With rst_n = 0 the host's read of STATUS, in its turn, is of the reset values (R229, R291). -/
theorem step_rdstat_of_reset {s : State} {rest : List HostLine} {turns : List Agent} (hn : s.rstN = false)
    (hj : s.job = none) (hs : s.script = .rdstat :: rest) (hturn : s.schedule = .host :: turns) :
    step s = .next (record (.status 0x00#8) { resetEngine (nextTurn s) with script := rest }) := by
  have noCall : holdInReset (nextTurn s) = resetEngine (nextTurn s) := by
    simp [holdInReset, abandonCall, callIssued, hj]
  have goes : agentEnabled .host (resetEngine (nextTurn s)) = true :=
    hostEnabled_of_line (s := resetEngine (nextTurn s)) hj hs (.inl rfl)
  rw [step_of_reset hn, noCall, hturn, List.head?_cons, chooseAgent_turn goes]
  have flags : status { resetEngine (nextTurn s) with script := rest } = 0x00#8 :=
    status_of_reset (by constructor <;> rfl)
  rw [← flags]
  exact hostStep_of_line (s := resetEngine (nextTurn s)) hj hs

end Sys2Proof.Machine

open Sys2Proof Sys2Proof.Machine

/-- Settles O9: with BUSY = 1 the step is an agent's, and with BUSY = 0 the acceptance. -/
theorem commandOfferedWhileBusyIsHeld : Obligations.CommandOfferedWhileBusyIsHeld := by
  refine ⟨fun s t hn hv hb h => ?_, fun t => step_of_offer, fun s rest turns hn hv hb hj hs hturn => ?_⟩
  · rw [step_of_turn hn (offerReady_of_busy hb)] at h
    exact agentStep_beside_offer (s := nextTurn s) hv h
  · exact step_of_hostLine hn (offerReady_of_busy hb) hturn hj hs
      (hostEnabled_of_line hj hs (.inr (.inr rfl)))

/-- Settles O46: the line alone, the line before an acceptance, and the line in reset. -/
theorem rdstatReadsStatus : Obligations.RdstatReadsStatus := by
  intro s rest turns hj hs hturn
  refine ⟨fun hn free => ?_, fun hn hv hb => ?_, fun hn => ?_⟩
  · exact step_of_hostLine hn (free.elim offerReady_of_no_offer offerReady_of_busy) hturn hj hs
      (hostEnabled_of_line hj hs (.inl rfl))
  · rw [step_of_offer hn hv hb, hturn, List.head?_cons, hostLook_rdstat (s := nextTurn s) hj hs, nextTurn, hturn]
    rfl
  · exact ⟨_, step_rdstat_of_reset hn hj hs hturn, rfl, rfl⟩

/-- Settles O47: the three answers of a read of DOUT, and the last of them before an acceptance too. -/
theorem rdoutReadsDout : Obligations.RdoutReadsDout := by
  intro s rest turns hn hj hs hturn
  have alone (ho : offerReady s = false) : step s = rdout { s with script := rest, schedule := turns } :=
    step_of_hostLine hn ho hturn hj hs (hostEnabled_of_line hj hs (.inr (.inl rfl)))
  refine ⟨fun hb => ⟨Config.busyDout s.draws, ?_⟩, fun hb hv => ?_, fun v hb hv hd => ⟨fun free => ?_, fun offered => ?_⟩⟩
  · rw [alone (offerReady_of_busy hb)]
    exact rdout_busy (s := { s with script := rest, schedule := turns }) hb
  · cases offered : s.cmdValid with
    | false =>
      rw [alone (offerReady_of_no_offer offered)]
      exact rdout_unwritten (s := { s with script := rest, schedule := turns }) hb hv
    | true =>
      rw [step_of_offer hn offered hb, hturn, List.head?_cons,
        hostLook_rdout_unwritten (s := nextTurn s) hj hs hb hv, bindNext_fault]
  · rw [alone (offerReady_of_no_offer free)]
    exact rdout_valid (s := { s with script := rest, schedule := turns }) hb hv hd
  · rw [step_of_offer hn offered hb, hturn, List.head?_cons, hostLook_rdout (s := nextTurn s) hj hs hb hv hd, nextTurn,
      hturn]
    rfl

end

section
/-!
PROOFS. Runs of the whole machine while an adapter call waits for its command: every step is the engine's (R190, R303).
-/

namespace Sys2Proof.Machine

theorem SameOutside.refl (s : State) : SameOutside s s := by constructor <;> rfl

/-- A run of steps splits anywhere. -/
theorem steps_add (m n : Nat) (s : State) : steps (m + n) s = bindNext (steps m s) (steps n) := by
  induction m generalizing s with
  | zero => rw [Nat.zero_add, steps, bindNext_next]
  | succ m ih =>
    rw [Nat.add_right_comm, steps, steps, bindNext_assoc]
    exact congrArg (bindNext (step s)) (funext ih)

/-- One step, then a run. -/
theorem steps_of_step {n : Nat} {s t u : State} (h : step s = .next t) (k : steps n t = .next u) :
    steps (n + 1) s = .next u := by
  rw [steps, h, bindNext_next, k]

/-- A run, then another. -/
theorem steps_trans {m n : Nat} {s t u : State} (h : steps m s = .next t) (k : steps n t = .next u) :
    steps (m + n) s = .next u := by
  rw [steps_add, h, bindNext_next, k]

/-- A run, then one step. -/
theorem steps_then_step {n : Nat} {s t u : State} (h : steps n s = .next t) (k : step t = .next u) :
    steps (n + 1) s = .next u :=
  steps_trans h (steps_of_step k rfl)

/-- The state with other turns to come. -/
@[simps phase widx round]
def withTurns (turns : List Agent) (s : State) : State := { s with schedule := turns }

/-- A micro-step does not look at the turns. -/
theorem microStep_withTurns (turns : List Agent) (s : State) :
    microStep (withTurns turns s) = mapNext (withTurns turns) (microStep s) := by
  unfold microStep
  simp only [withTurns_phase]
  split
  next => rfl
  next =>
    simp only [kxStep, withTurns_widx]
    split
    · split <;> rfl
    · rfl
  next =>
    simp only [encStep, withTurns_round]
    split
    · rfl
    · split
      · rfl
      · split <;> rfl
  next =>
    simp only [decStep, withTurns_round]
    split
    · rfl
    · split
      · rfl
      · split <;> rfl

/-- The host is inside call `c` at stage `g`, and reset stays released. What only the call's return or a line after it would
change is as it was in `s₀`, where the call was made. -/
structure InCall (s₀ : State) (c : AdapterCall) (g : Stage) (s : State) : Prop where
  rstN : s.rstN = true
  resetPlan : s.resetPlan = []
  job : s.job = some ⟨c, g⟩
  script : s₀.script = .call c :: s.script
  reads : s.reads = s₀.reads
  hasRkrd : s.hasRkrd = s₀.hasRkrd

variable {s₀ s t : State} {c : AdapterCall} {g : Stage}

theorem InCall.congr (h : InCall s₀ c g s) (e : SameOutside s t) : InCall s₀ c g t where
  rstN := e.rstN.trans h.rstN
  resetPlan := e.resetPlan.trans h.resetPlan
  job := e.job.trans h.job
  script := e.script ▸ h.script
  reads := e.reads.trans h.reads
  hasRkrd := e.hasRkrd.trans h.hasRkrd

theorem InCall.with_turns (h : InCall s₀ c g s) (turns : List Agent) : InCall s₀ c g (withTurns turns s) :=
  ⟨h.rstN, h.resetPlan, h.job, h.script, h.reads, h.hasRkrd⟩

theorem InCall.next_turn (h : InCall s₀ c g s) : InCall s₀ c g (nextTurn s) :=
  ⟨h.rstN, h.resetPlan, h.job, h.script, h.reads, h.hasRkrd⟩

/-- With no level to come the outside has no step. -/
theorem outside_not_enabled (h : s.resetPlan = []) : agentEnabled .outside s = false := by
  simp [agentEnabled, h]

/-- A call past its first action waits while the engine is busy (R240). -/
theorem InCall.host_waits (h : InCall s₀ c g s) (hg : g ≠ .start) (hb : s.busy = true) :
    agentEnabled .host s = false := by
  simp only [agentEnabled, hostEnabled, h.job]
  cases g with
  | start => exact absurd rfl hg
  | loading | running | reading => simp [jobEnabled, hb]

/-- So a step meanwhile is the engine's micro-step, whosever turn it is. -/
theorem InCall.step_of_busy (h : InCall s₀ c g s) (hg : g ≠ .start) (hb : s.busy = true) (hp : s.phase ≠ .idle) :
    step s = microStep (nextTurn s) := by
  have engine : agentEnabled .engine (nextTurn s) = true := decide_eq_true hp
  have others (b : Agent) (hne : b ≠ .engine) : agentEnabled b (nextTurn s) = false := by
    cases b with
    | engine => exact absurd rfl hne
    | host => exact h.next_turn.host_waits hg hb
    | outside => exact outside_not_enabled h.resetPlan
  rw [step_of_turn h.rstN (offerReady_of_busy hb), chooseAgent_only engine others]
  rfl

/-- The steps of the machine are then the micro-steps the command has left, one by one. -/
theorem InCall.steps_of_microSteps (h : InCall s₀ c g s) (hg : g ≠ .start) (range : Sequencing s) {n : Nat}
    (hn : n ≤ stepsLeft s) :
    ∃ t turns, microSteps n s = .next t ∧ steps n s = .next (withTurns turns t) ∧ Sequencing t ∧
      stepsLeft t + n = stepsLeft s ∧ SameOutside s t := by
  induction n with
  | zero => exact ⟨s, s.schedule, rfl, rfl, range, rfl, .refl s⟩
  | succ n ih =>
    obtain ⟨t, turns, ht, hsteps, trange, left, same⟩ := ih (by omega)
    have busy : t.busy = true := trange.busy_of_stepsLeft_ne_zero (by omega)
    have running : t.phase ≠ .idle := trange.busy_iff.1 busy
    obtain ⟨u, hu, effect⟩ := microStep_cases trange.widx_range trange.round_range
    have one := effect.stepsLeft_succ running
    have next : step (withTurns turns t) = .next (withTurns turns.tail u) := by
      rw [((h.congr same).with_turns turns).step_of_busy hg busy running]
      exact (microStep_withTurns turns.tail t).trans (by rw [hu, mapNext_next])
    exact ⟨u, turns.tail, by rw [microSteps_succ, ht, bindNext_next, hu], steps_then_step hsteps next,
      effect.sequencing trange, by omega, same.trans (microStep_sameOutside hu)⟩

end Sys2Proof.Machine

end

section
/-!
PROOFS. The commands of an adapter call (R240): a call at rest offers a command, the machine accepts it and runs it to its
end, and the call is at rest again with the command's result.
-/

namespace Sys2Proof.Machine

/-- The call is at rest: nothing is offered and nothing runs. -/
structure Resting (s₀ : State) (c : AdapterCall) (g : Stage) (s : State) : Prop extends InCall s₀ c g s where
  cmdValid : s.cmdValid = false
  busy : s.busy = false
  phase : s.phase = .idle

/-- The call has put a command that the engine has at the port of the idle engine. -/
structure Offering (s₀ : State) (c : AdapterCall) (g : Stage) (i : Instr) (v : Quad) (s : State) : Prop
    extends InCall s₀ c g s where
  cmdValid : s.cmdValid = true
  cmd : s.cmd = encode i
  operand : s.operand = v
  busy : s.busy = false
  phase : s.phase = .idle
  legal : i.wellFormed s.hasRkrd = true

/-- The key is in the engine's store, expanded, and the adapter's tag names it (R24, R245). -/
structure KeyLoaded (key : Quad) (s : State) : Prop where
  tag : s.loaded = some key
  keyValid : s.keyValid = true
  words : ∀ i, i < 44 → rkWord s i = keyWord key i

theorem KeyLoaded.congr {key : Quad} {s t : State} (h : KeyLoaded key s) (e : SameEngine s t)
    (htag : t.loaded = s.loaded) : KeyLoaded key t where
  tag := htag.trans h.tag
  keyValid := e.keyValid.trans h.keyValid
  words i hi := (congrFun (rkWord_congr e.rk) i).trans (h.words i hi)

/-- A turn used up leaves the key and the tag. -/
theorem KeyLoaded.next_turn {key : Quad} {s : State} (h : KeyLoaded key s) : KeyLoaded key (nextTurn s) :=
  h.congr (nextTurn_sameEngine s) rfl

/-- So does the return of a call. -/
theorem KeyLoaded.return_call {key : Quad} {s : State} (h : KeyLoaded key s) (r : CallResult) :
    KeyLoaded key (returnCall r s) :=
  h.congr (by constructor <;> rfl) rfl

variable {s₀ s t : State} {c : AdapterCall} {g : Stage} {i : Instr} {v key : Quad}

/-- A step of the engine that ends idle leaves the call at rest. -/
theorem Resting.congr (h : Resting s₀ c g s) (e : SameOutside s t) (hb : t.busy = false) (hp : t.phase = .idle) :
    Resting s₀ c g t :=
  ⟨h.toInCall.congr e, e.cmdValid.trans h.cmdValid, hb, hp⟩

theorem Resting.next_turn (h : Resting s₀ c g s) : Resting s₀ c g (nextTurn s) :=
  ⟨h.toInCall.next_turn, h.cmdValid, h.busy, h.phase⟩

theorem Resting.set_loaded (h : Resting s₀ c g s) (k : Quad) : Resting s₀ c g (setLoaded k s) :=
  ⟨⟨h.rstN, h.resetPlan, h.job, h.script, h.reads, h.hasRkrd⟩, h.cmdValid, h.busy, h.phase⟩

/-- From rest the call goes on, whosever turn it is (log 6, log 10). -/
theorem Resting.step_eq (h : Resting s₀ c g s) : step s = jobStep ⟨c, g⟩ (nextTurn s) := by
  have host : agentEnabled .host (nextTurn s) = true := by
    simp only [agentEnabled, hostEnabled, nextTurn_job, h.job]
    cases g <;> simp [jobEnabled, h.rstN, h.cmdValid, h.busy]
  have others (b : Agent) (hne : b ≠ .host) : agentEnabled b (nextTurn s) = false := by
    cases b with
    | engine => simp [agentEnabled, microEnabled, h.phase]
    | host => exact absurd rfl hne
    | outside => exact outside_not_enabled h.resetPlan
  rw [step_of_turn h.rstN (offerReady_of_no_offer h.cmdValid), chooseAgent_only host others]
  simp only [agentStep, hostStep, nextTurn_job, h.job]

/-- The call puts its next command at the port. -/
theorem Resting.offer (h : Resting s₀ c g s) (g' : Stage) (legal : i.wellFormed s.hasRkrd = true) (v : Quad) :
    Offering s₀ c g' i v (toStage c g' (driveCommand (encode i) v s)) :=
  ⟨⟨h.rstN, h.resetPlan, rfl, h.script, h.reads, h.hasRkrd⟩, rfl, rfl, rfl, h.busy, h.phase, legal⟩

/-- The call returns, and its host goes on with its next line. -/
theorem Resting.returned (h : Resting s₀ c g s) {rest : List HostLine} (call : Calling c rest s₀) (r : CallResult) :
    Returned r rest s₀ (returnCall r s) where
  quiet := ⟨h.rstN, h.cmdValid, h.busy, h.phase⟩
  job := rfl
  script := (List.cons.inj (h.script.symm.trans call.script)).2
  reads := congrArg (· ++ _) h.reads

/-- The machine accepts the command, whosever turn it is (R71). -/
theorem Offering.step_eq (h : Offering s₀ c g i v s) : step s = exec i (takeOffer (nextTurn s)) := by
  have noRead : readIsNext (nextTurn s) = false := by simp [readIsNext, h.job]
  have decoded : decode s.hasRkrd s.cmd = .ok i := by rw [h.cmd, decode_encode h.legal]
  rw [step_of_offer h.rstN h.cmdValid h.busy, hostLook_none (by simp [noRead])]
  exact accept_of_decode (s := nextTurn s) decoded

/-- The machine that has taken the command from the port and not yet run it. -/
theorem Offering.taken (h : Offering s₀ c g i v s) : Resting s₀ c g (takeOffer (nextTurn s)) :=
  ⟨⟨h.rstN, h.resetPlan, h.job, h.script, h.reads, h.hasRkrd⟩, rfl, h.busy, h.phase⟩

theorem taken_sameEngine (s : State) : SameEngine s (takeOffer (nextTurn s)) := by constructor <;> rfl

/-- A command in error leaves the call at rest with the error's code in ERR (R16, R269). -/
theorem Offering.step_of_error {e : ErrKind} (h : Offering s₀ c g i v s)
    (he : acceptError i (takeOffer (nextTurn s)) = some e) :
    step s = .next { takeOffer (nextTurn s) with err := errCode e } ∧
      Resting s₀ c g { takeOffer (nextTurn s) with err := errCode e } :=
  have raised := exec_of_acceptError he
  ⟨h.step_eq.trans raised, h.taken.congr (exec_sameOutside raised) h.busy h.phase⟩

/-- A command that runs takes its acceptance and its micro-steps, and leaves the call at rest with the command's effect
(R200). -/
theorem Offering.steps_of_run (h : Offering s₀ c g i v s) (hg : g ≠ .start) {n : Nat}
    (hn : commandMicroSteps i (takeOffer (nextTurn s)) = n)
    (run : bindNext (exec i (takeOffer (nextTurn s))) (microSteps n) = .next t) :
    ∃ u, steps (n + 1) s = .next u ∧ Resting s₀ c g u ∧ SameEngine t u ∧ u.loaded = s.loaded := by
  obtain ⟨a, accepted, micro⟩ := bindNext_eq_next.1 run
  have effect := exec_eq_next accepted
  have range : Sequencing a := effect.sequencing h.busy h.phase
  have left : stepsLeft a = n := (effect.stepsLeft_eq h.phase).trans hn
  have same := exec_sameOutside accepted
  obtain ⟨u, turns, hu, hsteps, urange, uleft, outside⟩ :=
    (h.taken.toInCall.congr same).steps_of_microSteps hg range left.ge
  obtain rfl : t = u := Host.Outcome.next.inj (micro.symm.trans hu)
  obtain ⟨busy, phase⟩ := urange.idle_of_stepsLeft_eq_zero (by omega)
  have rest := h.taken.congr (same.trans outside) busy phase
  exact ⟨withTurns turns t, steps_of_step (h.step_eq.trans accepted) hsteps,
    ⟨rest.toInCall.with_turns turns, rest.cmdValid, rest.busy, rest.phase⟩, by constructor <;> rfl,
    (same.trans outside).loaded⟩

/-- KEYEXP: acceptance and forty micro-steps, and the key is there for the adapter to note in its tag (R222). -/
theorem Offering.steps_keyexp (h : Offering s₀ c g (.keyexp 16#5) key s) (hg : g ≠ .start) :
    ∃ t, steps 41 s = .next t ∧ Resting s₀ c g t ∧ t.err = 0#4 ∧ KeyLoaded key (setLoaded key t) := by
  obtain ⟨t, run, words, keyValid, -, -, err, -⟩ := keyExpansionFillsTheStore (takeOffer (nextTurn s))
  obtain ⟨u, hu, rest, e, -⟩ := h.steps_of_run hg rfl run
  refine ⟨u, hu, rest, e.err.trans err, rfl, e.keyValid.trans keyValid, fun i hi => ?_⟩
  calc rkWord (setLoaded key u) i = rkWord t i := congrFun (rkWord_congr e.rk) i
    _ = keyWord s.operand i := (words i hi).2
    _ = keyWord key i := by rw [h.operand]

/-- Command `i` takes the block at the port through `cipher` under the loaded key, in eleven micro-steps (R201). -/
def RunsCipher (i : Instr) (cipher : (Nat → Word) → Block → Block) : Prop :=
  ∀ (s : State) (key : Quad), KeyLoaded key s → commandMicroSteps i s = 11 ∧
    ∃ t, bindNext (exec i s) (microSteps 11) = .next t ∧
      t.dout = some (vec128 (cipher (keyWord key) (bytes16 s.operand))) ∧ t.doutValid = true ∧ t.err = 0#4 ∧
      t.rk = s.rk ∧ t.keyValid = true

theorem runsCipher_enc : RunsCipher (.enc 16#5) encrypt := by
  intro s key h
  obtain ⟨⟨t, run, dout, valid, -, -, err, rk, keyValid, -⟩, -⟩ := microStepsComputeEncryptAndDecrypt s h.keyValid
  refine ⟨?_, t, run, by rw [dout, encrypt_congr h.words], valid, err, rk, keyValid⟩
  simp [commandMicroSteps, acceptError, requestError, lenIs16, h.keyValid]

theorem runsCipher_dec : RunsCipher (.dec 16#5) decrypt := by
  intro s key h
  obtain ⟨-, t, run, dout, valid, -, -, err, rk, keyValid, -⟩ := microStepsComputeEncryptAndDecrypt s h.keyValid
  refine ⟨?_, t, run, by rw [dout, decrypt_congr h.words], valid, err, rk, keyValid⟩
  simp [commandMicroSteps, acceptError, requestError, lenIs16, h.keyValid]

/-- ENC or DEC: acceptance and eleven micro-steps, and DOUT is the cipher of the block (R224, R225). -/
theorem Offering.steps_cipher {cipher : (Nat → Word) → Block → Block} (h : Offering s₀ c g i v s) (hg : g ≠ .start)
    (hi : RunsCipher i cipher) (hk : KeyLoaded key s) :
    ∃ t, steps 12 s = .next t ∧ Resting s₀ c g t ∧ KeyLoaded key t ∧ t.err = 0#4 ∧ t.doutValid = true ∧
      t.dout = some (vec128 (cipher (keyWord key) (bytes16 v))) := by
  obtain ⟨count, t, run, dout, valid, err, rk, keyValid⟩ := hi _ key (hk.congr (taken_sameEngine s) rfl)
  obtain ⟨u, hu, rest, e, tag⟩ := h.steps_of_run hg count run
  refine ⟨u, hu, rest, ⟨tag.trans hk.tag, e.keyValid.trans keyValid, fun i hi => ?_⟩, e.err.trans err,
    e.doutValid.trans valid, ?_⟩
  · exact (congrFun (rkWord_congr (e.rk.trans rk)) i).trans (hk.words i hi)
  · rw [e.dout, dout, takeOffer_operand, nextTurn_operand, h.operand]

/-- A round key reads the 44 words of the expansion and no other (R146). -/
theorem roundKey_congr {w w' : Nat → Word} (h : ∀ i, i < 44 → w i = w' i) {r : Nat} (hr : r ≤ 10) :
    roundKey w r = roundKey w' r := by
  rw [roundKey, roundKey, h _ (by omega), h _ (by omega), h _ (by omega), h _ (by omega)]

/-- RKRD: acceptance alone, and DOUT is the round key (R226). -/
theorem Offering.step_rkrd {r : Nat} (h : Offering s₀ c g (.rkrd (BitVec.ofNat 5 r)) v s) (hr : r ≤ 10)
    (hk : KeyLoaded key s) :
    ∃ t, step s = .next t ∧ Resting s₀ c g t ∧ KeyLoaded key t ∧ t.doutValid = true ∧
      t.dout = some (roundKey (keyWord key) r) := by
  have index : (BitVec.ofNat 5 r).toNat = r := by
    rw [BitVec.toNat_ofNat]
    omega
  have hk' : KeyLoaded key (takeOffer (nextTurn s)) := hk.congr (taken_sameEngine s) rfl
  have read := exec_rkrd_in_range (s := takeOffer (nextTurn s)) (index.trans_le hr) h.legal hk'.keyValid
  rw [index, roundKey_congr hk'.words hr] at read
  exact ⟨_, h.step_eq.trans read, h.taken.congr (exec_sameOutside read) rfl rfl,
    ⟨hk'.tag, hk'.keyValid, hk'.words⟩, rfl, rfl⟩

end Sys2Proof.Machine

end

section
/-!
PROOFS. The three adapter calls from the call to the return (R240 to R244).
-/

namespace Sys2Proof.Machine

/-- The words of eleven round keys, or of any number, are the words they were made of, in order (R146). -/
theorem wordsOfKeys_roundKeys (w : Nat → Word) (n : Nat) :
    wordsOfKeys ((List.range n).map (roundKey w)) = (List.range (4 * n)).map w := by
  induction n with
  | zero => rfl
  | succ n ih =>
    have words : [(roundKey w n).extractLsb' 96 32, (roundKey w n).extractLsb' 64 32, (roundKey w n).extractLsb' 32 32,
        (roundKey w n).extractLsb' 0 32] = [w (4 * n), w (4 * n + 1), w (4 * n + 2), w (4 * n + 3)] :=
      congrArg₂ _ (roundKey_word w n (j := 0) (by decide)) <| congrArg₂ _ (roundKey_word w n (j := 1) (by decide)) <|
        congrArg₂ _ (roundKey_word w n (j := 2) (by decide)) <|
          congrArg₂ _ (roundKey_word w n (j := 3) (by decide)) rfl
    rw [List.range_succ, List.map_append, wordsOfKeys, List.flatMap_append, ← wordsOfKeys, ih, List.map_singleton,
      List.flatMap_singleton, words, Nat.mul_succ, List.range_add, List.map_append]
    rfl

/-- The first `r` round keys of a key. -/
def roundKeysBelow (key : Quad) (r : Nat) : List Quad := (List.range r).map (roundKey (keyWord key))

theorem roundKeysBelow_succ (key : Quad) (r : Nat) :
    roundKeysBelow key (r + 1) = roundKeysBelow key r ++ [roundKey (keyWord key) r] := by
  rw [roundKeysBelow, List.range_succ, List.map_append, List.map_singleton, roundKeysBelow]

/-- The round keys of a key are an expansion (R144, R145). -/
theorem isExpansion_roundKeys (key : Quad) : isExpansion (roundKeysBelow key 11) = true := by
  have word {i : Nat} (hi : i < 44) : ((List.range (4 * 11)).map (keyWord key)).getD i 0#32 = keyWord key i := by
    rw [List.getD_eq_getElem _ _ (by simpa using hi), List.getElem_map, List.getElem_range]
  simp only [isExpansion, roundKeysBelow, wordsOfKeys_roundKeys, Bool.and_eq_true, List.all_eq_true, List.mem_range,
    beq_iff_eq]
  refine ⟨rfl, fun j hj => ?_⟩
  rw [word (by omega), word (by omega), word (by omega), keyWord]

/-- Round key 0 is the key (R141, R146). -/
theorem roundKey_keyWord_zero (key : Quad) : roundKey (keyWord key) 0 = key := by
  rw [roundKey, keyWord_of_lt_four key (by decide), keyWord_of_lt_four key (by decide),
    keyWord_of_lt_four key (by decide), keyWord_of_lt_four key (by decide)]
  exact append_four_parts (n := 32) key

/-- What expandKey returns of a key: its eleven round keys, or without RKRD a handle (R241). -/
def roundKeysOf (hasRkrd : Bool) (key : Quad) : RoundKeys :=
  if hasRkrd then .keys (roundKeysBelow key 11) else .handle key

/-- Either form names the key (R242). -/
theorem keyOfRoundKeys_roundKeysOf (hasRkrd : Bool) (key : Quad) :
    keyOfRoundKeys (roundKeysOf hasRkrd key) = some key := by
  cases hasRkrd with
  | false => rfl
  | true =>
    simp only [roundKeysOf, keyOfRoundKeys, isExpansion_roundKeys, if_true]
    exact congrArg some (roundKey_keyWord_zero key)

/-- Byte values pass the adapter's check (R240). -/
theorem outOfRange_eq_false {xs : List Int} (h : ∀ x ∈ xs, 0 ≤ x ∧ x ≤ 255) : outOfRange xs = false := by
  simp only [outOfRange, List.any_eq_false, Bool.or_eq_true, decide_eq_true_eq, not_or, not_lt]
  exact h

/-- The LEN of a list tells whether it has sixteen elements (R74). -/
theorem lenField_eq_sixteen_iff (n : Nat) : lenField n = 16#5 ↔ n = 16 := by
  rw [← BitVec.toNat_inj, lenField, BitVec.toNat_ofNat, BitVec.toNat_ofNat]
  omega

/-- Every engine has the command a call sends (R77, R78). -/
theorem callCommand_wellFormed (c : AdapterCall) (len : BitVec 5) (hasRkrd : Bool) :
    (callCommand c len).wellFormed hasRkrd = true := by
  cases c <;> rfl

/-- The error of a call whose input is not sixteen bytes long (R261). -/
def lengthError : AdapterCall → ErrKind
  | .expandKey _ => .invalidKeyLength
  | .encryptBlock _ _ => .invalidBlockLength
  | .decryptBlock _ _ => .invalidBlockLength

/-- 0 in ERR is no error's code (R261). -/
theorem errCode_ne_zero (e : ErrKind) : errCode e ≠ 0#4 := by
  cases e <;> decide

theorem acceptError_callCommand (c : AdapterCall) {len : BitVec 5} (h : len ≠ 16#5) (s : State) :
    acceptError (callCommand c len) s = some (lengthError c) := by
  cases c <;> simp [callCommand, lengthError, acceptError, requestError, lenIs16, h]

variable {s₀ s t : State} {c : AdapterCall} {g : Stage} {rest : List HostLine} {key : Quad} {rks : RoundKeys}

/-- The host enters the call (R82, log 10). -/
theorem Calling.step_eq (h : Calling c rest s) :
    ∃ t, step s = .next t ∧ Resting s c .start t ∧ SameEngine s t ∧ t.loaded = s.loaded := by
  obtain ⟨⟨hn, hv, hb, hp⟩, hj, hs, hplan⟩ := h
  have host : agentEnabled .host (nextTurn s) = true := by
    simp only [agentEnabled, hostEnabled, nextTurn_job, hj, nextTurn_script, hs]
  have others (b : Agent) (hne : b ≠ .host) : agentEnabled b (nextTurn s) = false := by
    cases b with
    | engine => simp [agentEnabled, microEnabled, hp]
    | host => exact absurd rfl hne
    | outside => exact outside_not_enabled hplan
  refine ⟨toStage c .start { nextTurn s with script := rest }, ?_,
    ⟨⟨hn, hplan, rfl, hs, rfl, rfl⟩, hv, hb, hp⟩, by constructor <;> rfl, rfl⟩
  rw [step_of_turn hn (offerReady_of_no_offer hv), chooseAgent_only host others]
  exact hostStep_of_line (s := nextTurn s) hj hs

/-- A call with byte values that needs no key loaded first offers its own command (R241, R242). -/
theorem startCall_eq_offerCommand (hbytes : ∀ x ∈ callBytes c, 0 ≤ x ∧ x ≤ 255)
    (hkey : ∀ rks, callRoundKeys c = some rks → (callBytes c).length = 16 →
      ∃ k, keyOfRoundKeys rks = some k ∧ s.loaded = some k) :
    startCall c s = .next (offerCommand c s) := by
  rw [startCall, outOfRange_eq_false hbytes]
  cases hr : callRoundKeys c with
  | none => rfl
  | some rks =>
    by_cases hlen : (callBytes c).length = 16
    · obtain ⟨k, hk, tag⟩ := hkey rks hr hlen
      simp [hlen, hk, tag]
    · simp [hlen]

/-- A block call whose key the tag does not name offers KEYEXP first (R242). -/
theorem startCall_eq_offerKey (hblock : isBlockList (callBytes c)) (hrks : callRoundKeys c = some rks)
    (hkey : keyOfRoundKeys rks = some key) (tag : s.loaded ≠ some key) :
    startCall c s = .next (offerKey c key s) := by
  rw [startCall, outOfRange_eq_false hblock.2, hrks]
  simp [hblock.1, hkey, tag]

/-- The offer of the call's own command, with the LEN and the operand of R240. -/
theorem Resting.offer_command (h : Resting s₀ c g s) :
    Offering s₀ c .running (callCommand c (lenField (callBytes c).length))
      (if (callBytes c).length = 16 then vec128List (callBytes c) else 0#128) (offerCommand c s) :=
  h.offer .running (callCommand_wellFormed c _ _) _

/-- With sixteen bytes that is the legal command with the bytes as its operand. -/
theorem Resting.offer_block (h : Resting s₀ c g s) (hlen : (callBytes c).length = 16) :
    Offering s₀ c .running (callCommand c 16#5) (vec128List (callBytes c)) (offerCommand c s) := by
  have offered := h.offer_command
  rwa [(lenField_eq_sixteen_iff _).2 hlen, if_pos hlen] at offered

/-- A call whose command ended in error returns the code (R241, R242, R244). -/
theorem commandDone_of_error (err : s.err ≠ 0#4) : commandDone c s = .next (returnCall (.error s.err) s) := by
  rw [commandDone, if_pos err]

/-- A block call returns the bytes of DOUT (R242, R243). -/
theorem commandDone_block (hrks : callRoundKeys c = some rks) (err : s.err = 0#4) (hb : s.busy = false)
    (valid : s.doutValid = true) {b : Block} (dout : s.dout = some (vec128 b)) :
    commandDone c s = .next (returnCall (.block (byteList b)) s) := by
  simp only [commandDone, err, ne_eq, not_true_eq_false, if_false, hrks, readDout_valid hb valid dout, mapNext_next,
    bytes16_vec128]

/-- One round key is read back and the next one asked for (R241). -/
theorem roundKeyDone_of_lt {r : Nat} (hr : r < 10) (got : List Quad) {v : Quad} (hb : s.busy = false)
    (valid : s.doutValid = true) (dout : s.dout = some v) :
    roundKeyDone c r got s = .next (offerRoundKeyRead c (r + 1) (got ++ [v]) s) := by
  simp [roundKeyDone, readDout_valid hb valid dout, hr]

/-- With the last one the call returns them all (R241). -/
theorem roundKeyDone_last (got : List Quad) {v : Quad} (hb : s.busy = false) (valid : s.doutValid = true)
    (dout : s.dout = some v) :
    roundKeyDone c 10 got s = .next (returnCall (.roundKeys (.keys (got ++ [v]))) s) := by
  simp [roundKeyDone, readDout_valid hb valid dout]

/-- expandKey has the round keys below `r` and has asked for round key `r` (R241). -/
structure Reading (s₀ : State) (c : AdapterCall) (key : Quad) (r : Nat) (s : State) : Prop where
  offering : Offering s₀ c (.reading r (roundKeysBelow key r)) (.rkrd (BitVec.ofNat 5 r)) 0#128 s
  loaded : KeyLoaded key s

/-- The offer of the RKRD of round key `r`, in an engine that has it. -/
theorem Resting.reading (h : Resting s₀ c g s) (hk : KeyLoaded key s) (hh : s₀.hasRkrd = true) (r : Nat) :
    Reading s₀ c key r (offerRoundKeyRead c r (roundKeysBelow key r) s) where
  offering := h.offer _ (i := .rkrd (BitVec.ofNat 5 r)) (h.hasRkrd.trans hh) _
  loaded := hk.congr (by constructor <;> rfl) rfl

/-- Two steps read one round key and ask for the next. -/
theorem Reading.steps_two {r : Nat} (h : Reading s₀ c key r s) (hr : r < 10) :
    ∃ t, steps 2 s = .next t ∧ Reading s₀ c key (r + 1) t := by
  obtain ⟨t, accepted, resting, loaded, valid, dout⟩ := h.offering.step_rkrd hr.le h.loaded
  have read := resting.step_eq.trans (roundKeyDone_of_lt (s := nextTurn t) hr _ resting.busy valid dout)
  rw [← roundKeysBelow_succ] at read
  exact ⟨_, steps_of_step accepted (steps_of_step read rfl),
    resting.next_turn.reading loaded.next_turn
      (h.offering.hasRkrd.symm.trans h.offering.legal) _⟩

/-- Two steps read the last round key and return them all. -/
theorem Reading.steps_last (h : Reading s₀ c key 10 s) (call : Calling c rest s₀) :
    ∃ t, steps 2 s = .next t ∧ Returned (.roundKeys (.keys (roundKeysBelow key 11))) rest s₀ t ∧ KeyLoaded key t := by
  obtain ⟨t, accepted, resting, loaded, valid, dout⟩ := h.offering.step_rkrd le_rfl h.loaded
  have read := resting.step_eq.trans (roundKeyDone_last (s := nextTurn t) _ resting.busy valid dout)
  rw [← roundKeysBelow_succ] at read
  exact ⟨_, steps_of_step accepted (steps_of_step read rfl), resting.next_turn.returned call _,
    loaded.next_turn.return_call _⟩

/-- expandKey's loop: with `k` round keys to come after this one, two steps for each of the `k + 1` (R241). -/
theorem Reading.steps_all {k r : Nat} (h : Reading s₀ c key r s) (hr : r + k = 10) (call : Calling c rest s₀) :
    ∃ t, steps (2 * k + 2) s = .next t ∧ Returned (.roundKeys (.keys (roundKeysBelow key 11))) rest s₀ t ∧
      KeyLoaded key t := by
  induction k generalizing r s with
  | zero =>
    obtain rfl : r = 10 := hr
    exact h.steps_last call
  | succ k ih =>
    obtain ⟨t, ht, reading⟩ := h.steps_two (by omega)
    obtain ⟨u, hu, returned⟩ := ih reading (by omega)
    have count : 2 * (k + 1) + 2 = 2 + (2 * k + 2) := by omega
    exact ⟨u, count ▸ steps_trans ht hu, returned⟩

/-- After its KEYEXP expandKey reads the round keys back, or without RKRD returns at once (R241). -/
theorem Resting.steps_expanded {xs : List Int} (h : Resting s₀ (.expandKey xs) .running s) (err : s.err = 0#4)
    (hk : KeyLoaded (vec128List xs) (setLoaded (vec128List xs) s)) (call : Calling (.expandKey xs) rest s₀) :
    ∃ n t, n ≤ 23 ∧ steps n s = .next t ∧
      Returned (.roundKeys (roundKeysOf s₀.hasRkrd (vec128List xs))) rest s₀ t ∧ KeyLoaded (vec128List xs) t := by
  have resting := h.next_turn.set_loaded (vec128List xs)
  have loaded : KeyLoaded (vec128List xs) (setLoaded (vec128List xs) (nextTurn s)) :=
    hk.congr (by constructor <;> rfl) rfl
  cases hh : s₀.hasRkrd with
  | false =>
    have done : step s = .next (returnCall (.roundKeys (.handle (vec128List xs)))
        (setLoaded (vec128List xs) (nextTurn s))) := by
      simp [h.step_eq, jobStep, commandDone, err, callRoundKeys, callBytes, h.hasRkrd, hh]
    exact ⟨1, _, by decide, steps_of_step done rfl, resting.returned call _, loaded.return_call _⟩
  | true =>
    have read : step s = .next (offerRoundKeyRead (.expandKey xs) 0 (roundKeysBelow (vec128List xs) 0)
        (setLoaded (vec128List xs) (nextTurn s))) := by
      simp [h.step_eq, jobStep, commandDone, err, callRoundKeys, callBytes, h.hasRkrd, hh, roundKeysBelow]
    obtain ⟨t, ht, returned, loaded⟩ := (resting.reading loaded hh 0).steps_all (k := 10) rfl call
    exact ⟨23, t, le_rfl, steps_of_step read ht, returned, loaded⟩

/-- From the offer of its own command a block call has its result in thirteen steps (R242, R243). -/
theorem Resting.steps_block {cipher : (Nat → Word) → Block → Block} (h : Resting s₀ c g s)
    (hlen : (callBytes c).length = 16) (hrks : callRoundKeys c = some rks) (hi : RunsCipher (callCommand c 16#5) cipher)
    (hk : KeyLoaded key s) (call : Calling c rest s₀) :
    ∃ t, steps 13 (offerCommand c s) = .next t ∧
      Returned (.block (byteList (cipher (keyWord key) (bytes16 (vec128List (callBytes c)))))) rest s₀ t ∧
      KeyLoaded key t := by
  have offered : KeyLoaded key (offerCommand c s) := hk.congr (by constructor <;> rfl) rfl
  obtain ⟨t, ht, resting, loaded, err, valid, dout⟩ := (h.offer_block hlen).steps_cipher (by decide) hi offered
  have done := resting.step_eq.trans (commandDone_block (s := nextTurn t) hrks err resting.busy valid dout)
  exact ⟨_, steps_then_step ht done, resting.next_turn.returned call _, loaded.next_turn.return_call _⟩

/-- A block call returns the cipher of its block under the key its round keys name, which it loads unless the tag tells
that it is there (R242, R243, R245). -/
theorem Calling.steps_block {cipher : (Nat → Word) → Block → Block} (call : Calling c rest s)
    (hblock : isBlockList (callBytes c)) (hrks : callRoundKeys c = some rks) (hkey : keyOfRoundKeys rks = some key)
    (hi : RunsCipher (callCommand c 16#5) cipher)
    (tagged : s.loaded = some key → s.keyValid = true ∧ ∀ i, i < 44 → rkWord s i = keyWord key i) :
    ∃ n t, n ≤ 57 ∧ steps n s = .next t ∧
      Returned (.block (byteList (cipher (keyWord key) (bytes16 (vec128List (callBytes c)))))) rest s t ∧
      KeyLoaded key t := by
  obtain ⟨t, entered, resting, same, tag⟩ := call.step_eq
  by_cases there : s.loaded = some key
  · have loaded : KeyLoaded key t := KeyLoaded.congr ⟨there, (tagged there).1, (tagged there).2⟩ same tag
    have offers : step t = .next (offerCommand c (nextTurn t)) :=
      resting.step_eq.trans (startCall_eq_offerCommand hblock.2 fun rks' hrks' _ => by
        obtain rfl : rks = rks' := Option.some.inj (hrks.symm.trans hrks')
        exact ⟨key, hkey, loaded.tag⟩)
    obtain ⟨u, hu, result⟩ := resting.next_turn.steps_block hblock.1 hrks hi loaded.next_turn call
    exact ⟨15, u, by decide, steps_of_step entered (steps_of_step offers hu), result⟩
  · have offers : step t = .next (offerKey c key (nextTurn t)) :=
      resting.step_eq.trans (startCall_eq_offerKey hblock hrks hkey (by rwa [nextTurn_loaded, tag]))
    have offering : Offering s c (.loading key) (.keyexp 16#5) key (offerKey c key (nextTurn t)) :=
      resting.next_turn.offer _ rfl _
    obtain ⟨u, expanded, resting, -, loaded⟩ := offering.steps_keyexp (by simp)
    obtain ⟨v, hv, result⟩ := (resting.next_turn.set_loaded key).steps_block hblock.1 hrks hi
      (loaded.congr (by constructor <;> rfl) rfl) call
    exact ⟨57, v, le_rfl,
      steps_of_step entered (steps_of_step offers (steps_trans expanded (steps_of_step resting.step_eq hv))), result⟩

end Sys2Proof.Machine

open Sys2Proof Sys2Proof.Machine

/-- Settles O48: the call, its offer, 41 steps of KEYEXP, and the reading back of eleven round keys or none. -/
theorem expandKeyReturnsTheRoundKeys : Obligations.ExpandKeyReturnsTheRoundKeys := by
  intro s xs rest call hblock
  obtain ⟨t, entered, resting, -⟩ := call.step_eq
  have offers : step t = .next (offerCommand (.expandKey xs) (nextTurn t)) :=
    resting.step_eq.trans (startCall_eq_offerCommand hblock.2 nofun)
  obtain ⟨u, expanded, resting, err, loaded⟩ := (resting.next_turn.offer_block hblock.1).steps_keyexp (by simp)
  obtain ⟨n, v, hn, hv, returned, loaded⟩ := resting.steps_expanded err loaded call
  exact ⟨41 + n + 1 + 1, v, _, by omega, steps_of_step entered (steps_of_step offers (steps_trans expanded hv)), returned,
    rfl, keyOfRoundKeys_roundKeysOf _ _, loaded.tag, loaded.keyValid, loaded.words⟩

/-- Settles O49: `Calling.steps_block` for ENC and for DEC. -/
theorem blockCallsReturnTheCipher : Obligations.BlockCallsReturnTheCipher := by
  intro s xs rks key rest hblock hkey tagged
  refine ⟨fun call => ?_, fun call => ?_⟩
  · obtain ⟨n, t, hn, ht, returned, loaded⟩ := call.steps_block hblock rfl hkey runsCipher_enc tagged
    exact ⟨n, t, hn, ht, returned, loaded.tag, loaded.keyValid, loaded.words⟩
  · obtain ⟨n, t, hn, ht, returned, loaded⟩ := call.steps_block hblock rfl hkey runsCipher_dec tagged
    exact ⟨n, t, hn, ht, returned, loaded.tag, loaded.keyValid, loaded.words⟩

/-- Settles O50: the call, its offer, the acceptance that raises the length error, and the return of ERR. -/
theorem wrongLengthCallsReturnTheLengthError : Obligations.WrongLengthCallsReturnTheLengthError := by
  intro s c rest call hbytes hlen
  obtain ⟨t, entered, resting, same, tag⟩ := call.step_eq
  have offers : step t = .next (offerCommand c (nextTurn t)) :=
    resting.step_eq.trans (startCall_eq_offerCommand hbytes fun _ _ h => absurd h hlen)
  obtain ⟨raised, resting⟩ := resting.next_turn.offer_command.step_of_error
    (acceptError_callCommand c (mt (lenField_eq_sixteen_iff _).1 hlen) _)
  have done := resting.step_eq.trans (commandDone_of_error (errCode_ne_zero (lengthError c)))
  refine ⟨_, errCode (lengthError c),
    steps_of_step entered (steps_of_step offers (steps_of_step raised (steps_of_step done rfl))),
    resting.next_turn.returned call _, ?_, rfl, same.st, same.rk, same.keyValid, same.dout, same.doutValid, same.round,
    same.widx, tag⟩
  cases c <;> rfl

end

section
/-!
PROOFS. The error of a request (R260 to R267): the first check of R267 that applies is what an acceptance raises, and a
command that passes them all raises none.
-/

namespace Sys2Proof.Machine

/-- The checks of the request come before that of the key (R267). -/
theorem acceptError_of_requestError {i : Instr} {s : State} {e : ErrKind} (h : requestError s.hasRkrd i = some e) :
    acceptError i s = some e := by
  rw [acceptError, h]

/-- A request in order that needs a key and finds none loaded (R265, R267). -/
theorem acceptError_of_no_key {i : Instr} {s : State} (request : requestError s.hasRkrd i = none)
    (needs : needsKey i = true) (hk : s.keyValid = false) : acceptError i s = some .keyNotLoaded := by
  simp only [acceptError, request, needs, hk, Bool.not_false, Bool.and_self, if_true]

/-- With a key loaded only the request can be in error (R267). -/
theorem acceptError_of_key {i : Instr} {s : State} (hk : s.keyValid = true) :
    acceptError i s = requestError s.hasRkrd i := by
  cases h : requestError s.hasRkrd i <;> simp [acceptError, h, hk]

/-- The checks of the request pass a legal field (R77) in an engine that has the command (R78). -/
theorem requestError_eq_none {hasRkrd : Bool} {i : Instr} (legal : i.legalField = true)
    (has : i.wellFormed hasRkrd = true) : requestError hasRkrd i = none := by
  cases i with
  | keyexp len | enc len | dec len => simpa [requestError, lenIs16, Instr.legalField] using legal
  | rkrd r =>
    obtain rfl : hasRkrd = true := has
    simpa [requestError, ridxInRange, Instr.legalField] using legal

/-- KEYEXP with a LEN other than 16 (R262). -/
theorem acceptError_keyexp_len {len : BitVec 5} (h : len ≠ 16#5) (s : State) :
    acceptError (.keyexp len) s = some .invalidKeyLength :=
  acceptError_of_requestError (by simp [requestError, lenIs16, h])

/-- ENC and DEC with a LEN other than 16 (R263). -/
theorem acceptError_block_len {i : Instr} {len : BitVec 5} (hi : i = .enc len ∨ i = .dec len) (h : len ≠ 16#5)
    (s : State) : acceptError i s = some .invalidBlockLength := by
  rcases hi with rfl | rfl <;> exact acceptError_of_requestError (by simp [requestError, lenIs16, h])

/-- The acceptance of a command's own word, with the command in error, takes the offer and writes ERR (R16, R220). -/
theorem accept_of_acceptError {s : State} {i : Instr} {e : ErrKind} (hw : s.cmd = encode i)
    (has : i.wellFormed s.hasRkrd = true) (h : acceptError i (takeOffer s) = some e) :
    accept s = .next { takeOffer s with err := errCode e } := by
  have decoded : decode s.hasRkrd s.cmd = .ok i := by rw [hw, decode_encode has]
  rw [accept_of_decode decoded, exec_of_acceptError h]

/-- The adapter's range check finds an element that is no byte (R240, R264). -/
theorem outOfRange_iff {xs : List Int} : outOfRange xs = true ↔ ∃ x ∈ xs, x < 0 ∨ 255 < x := by
  simp only [outOfRange, List.any_eq_true, Bool.or_eq_true, decide_eq_true_eq]

/-- A call with such an element returns ByteRangeError and offers no command (R240, R264). -/
theorem jobStep_of_outOfRange {c : AdapterCall} (h : outOfRange (callBytes c) = true) (s : State) :
    jobStep ⟨c, .start⟩ s = .next (returnCall (.error (errCode .byteRange)) s) := by
  rw [jobStep, startCall, if_pos h]

end Sys2Proof.Machine

open Sys2Proof Sys2Proof.Machine

/-- Settles O7: the words are those of KEYEXP, ENC and DEC with LEN 15 and 17, in error whatever the state. -/
theorem fifteenAndSeventeenByteInputsFail : Obligations.FifteenAndSeventeenByteInputsFail := by
  refine fun s => ⟨fun hw => ⟨false, ?_⟩, fun hw => ⟨false, ?_⟩⟩
  · rcases hw with hw | hw
    · exact accept_of_acceptError (i := .keyexp 15#5) hw rfl (acceptError_keyexp_len (by decide) _)
    · exact accept_of_acceptError (i := .keyexp 17#5) hw rfl (acceptError_keyexp_len (by decide) _)
  · rcases hw with hw | hw | hw | hw
    · exact accept_of_acceptError (i := .enc 15#5) hw rfl (acceptError_block_len (.inl rfl) (by decide) _)
    · exact accept_of_acceptError (i := .enc 17#5) hw rfl (acceptError_block_len (.inl rfl) (by decide) _)
    · exact accept_of_acceptError (i := .dec 15#5) hw rfl (acceptError_block_len (.inr rfl) (by decide) _)
    · exact accept_of_acceptError (i := .dec 17#5) hw rfl (acceptError_block_len (.inr rfl) (by decide) _)

/-- Settles O8: the checks of R267 one by one, each by what `acceptError` answers, and none where all pass. -/
theorem errorsAreReportedInPriorityOrder : Obligations.ErrorsAreReportedInPriorityOrder := by
  refine ⟨fun s c noByte => ?range, fun s w rejected => ⟨false, accept_of_illegal rejected⟩,
    fun s len hlen => ⟨exec_of_acceptError (acceptError_keyexp_len hlen s),
      exec_of_acceptError (acceptError_block_len (.inl rfl) hlen s),
      exec_of_acceptError (acceptError_block_len (.inr rfl) hlen s)⟩,
    fun s r hr => exec_of_acceptError (acceptError_rkrd_beyond hr),
    fun s hk => ⟨exec_of_acceptError (acceptError_of_no_key rfl rfl hk),
      exec_of_acceptError (acceptError_of_no_key rfl rfl hk),
      fun hh r hr => exec_of_acceptError (acceptError_rkrd_no_key hh hr hk)⟩,
    fun i s t legal has hk h => ?none⟩
  case range =>
    have out := outOfRange_iff.2 noByte
    exact ⟨by rw [jobEnabled, out, Bool.true_or], jobStep_of_outOfRange out s⟩
  case none =>
    have passes : acceptError i s = none := (acceptError_of_key hk).trans (requestError_eq_none legal has)
    rcases (exec_eq_next h).err with ⟨e, raised, -⟩ | ⟨-, same⟩ | ⟨-, zero, -⟩
    · nomatch passes.symm.trans raised
    · exact .inl same
    · exact .inr zero

end

section
/-!
PROOFS. What stops the machine (R269, R280): the engine never does, and the host only by a read of DOUT with nothing to
read.
-/

namespace Sys2Proof.Machine

/-- An accepting step keeps the invariant. -/
theorem accept_inv {s t : State} (h : Inv s) (ht : accept s = .next t) : Inv t := by
  have taken : Inv (takeOffer s) := h.congr (takeOffer_sameEngine s)
  rcases accept_eq_next ht with ⟨_, -, rfl⟩ | ⟨_, -, c⟩
  · exact raise_inv taken nofun
  · exact c.inv taken

/-- The host is where it can read DOUT: inside an adapter call, or at its line RDOUT. -/
def AtDoutRead (s : State) : Prop := s.job ≠ none ∨ ∃ rest, s.script = .rdout :: rest

/-- A fault of R280: ReadUnwrittenDOUT, by the host, with BUSY = 0 and DOUT_VALID = 0. -/
structure UnwrittenRead (s : State) (f : Fault) : Prop where
  fault : f = .readUnwrittenDOUT
  busy : s.busy = false
  doutValid : s.doutValid = false
  host : AtDoutRead s

/-- A call in flight faults only by its read of DOUT (R230). -/
theorem readDout_of_jobStep_fault {j : Job} {s : State} {f : Fault} (h : jobStep j s = .fault f) :
    readDout s = .fault f := by
  obtain ⟨c, g⟩ := j
  cases g with
  | start =>
    simp only [jobStep, startCall] at h
    repeat' split at h
    all_goals cases h
  | loading => cases h
  | running =>
    simp only [jobStep, commandDone] at h
    split at h
    · cases h
    · split at h
      · exact mapNext_eq_fault.1 h
      · split at h <;> cases h
  | reading => exact mapNext_eq_fault.1 h

/-- The host faults only by a read of DOUT with nothing to read (R280). -/
theorem hostStep_eq_fault {s : State} {f : Fault} (h : hostStep s = .fault f) : UnwrittenRead s f := by
  cases hj : s.job with
  | some j =>
    simp only [hostStep, hj] at h
    obtain ⟨hf, hb, hv⟩ := readDout_eq_fault.1 (readDout_of_jobStep_fault h)
    exact ⟨hf, hb, hv, .inl (by simp [hj])⟩
  | none =>
    cases hs : s.script with
    | nil => simp [hostStep, hj, hs] at h
    | cons l rest =>
      rw [hostStep_of_line hj hs] at h
      cases l with
      | rdout =>
        obtain ⟨hf, hb, hv⟩ := readDout_eq_fault.1 (mapNext_eq_fault.1 h)
        exact ⟨hf, hb, hv, .inr ⟨rest, hs⟩⟩
      | offer | hold | withdraw | wait | rdstat | call => cases h

/-- So does a read that is due before an acceptance. -/
theorem hostLook_eq_fault {turn : Option Agent} {s : State} {f : Fault} (h : hostLook turn s = .fault f) :
    UnwrittenRead s f := by
  unfold hostLook at h
  split at h
  · exact hostStep_eq_fault h
  · cases h

/-- With the sequencer in range the agent that goes faults only as the host. -/
theorem agentStep_eq_fault {turn : Option Agent} {s : State} {f : Fault} (range : Sequencing s)
    (h : agentStep (chooseAgent turn s) s = .fault f) : UnwrittenRead s f := by
  revert h
  refine agentStep_cases (P := fun o => o = .fault f → _) ?engine ?host ?outside ?idle
  case engine =>
    intro _ h
    obtain ⟨t, ht, -⟩ := microStep_cases range.widx_range range.round_range
    nomatch ht.symm.trans h
  case host => exact fun _ h => hostStep_eq_fault h
  case outside => exact nofun
  case idle => exact nofun

/-- Reset leaves a host that reads DOUT where it was, or has just taken it out of a call. -/
theorem AtDoutRead.of_holdInReset {s : State} (h : AtDoutRead (holdInReset s)) : AtDoutRead s := by
  cases hj : s.job with
  | some j => exact .inl (by simp [hj])
  | none =>
    have noCall : abandonCall s = s := by simp [abandonCall, callIssued, hj]
    rwa [holdInReset, noCall] at h

/-- From a state of the invariant a step faults only by a read of DOUT, which has nothing to read (R280). -/
theorem step_eq_fault {s : State} {f : Fault} (inv : Inv s) (h : step s = .fault f) :
    f = .readUnwrittenDOUT ∧ AtDoutRead s ∧ (s.rstN = true → s.busy = false ∧ s.doutValid = false) := by
  rcases step_shape s with ⟨-, -, -, hs⟩ | ⟨-, -, hs⟩ | ⟨hn, hs⟩ <;> rw [hs] at h
  · have read : UnwrittenRead (nextTurn s) f := by
      rcases bindNext_eq_fault.1 h with looks | ⟨t, -, accepts⟩
      · exact hostLook_eq_fault looks
      · obtain ⟨u, hu⟩ := accept_total t
        nomatch hu.symm.trans accepts
    exact ⟨read.fault, read.host, fun _ => ⟨read.busy, read.doutValid⟩⟩
  · have read := agentStep_eq_fault (inv.congr (nextTurn_sameEngine s)).control.sequencing h
    exact ⟨read.fault, read.host, fun _ => ⟨read.busy, read.doutValid⟩⟩
  · have read := agentStep_eq_fault (sequencing_of_idle rfl rfl) h
    exact ⟨read.fault, read.host.of_holdInReset (s := nextTurn s), by simp [hn]⟩

/-- With the engine idle a host that can go goes, unless it is the outside's turn (log 6). -/
theorem chooseAgent_host {turn : Option Agent} {s : State} (hp : s.phase = .idle) (enabled : hostEnabled s = true)
    (hturn : turn ≠ some .outside) : chooseAgent turn s = some .host := by
  have engine : agentEnabled .engine s = false := by simp [agentEnabled, microEnabled, hp]
  have host : agentEnabled .host s = true := enabled
  have first : firstEnabled s = some .host := by simp [firstEnabled, engine, host]
  match turn with
  | none => exact first
  | some .host => exact chooseAgent_turn host
  | some .engine => simp [chooseAgent, engine, first]
  | some .outside => exact absurd rfl hturn

end Sys2Proof.Machine

open Sys2Proof Sys2Proof.Machine

/-- Settles O38: an acceptance and a micro-step in range always answer, and each keeps the invariant. -/
theorem engineNeverFaults : Obligations.EngineNeverFaults := by
  intro s h
  unfold engineStep
  split
  · obtain ⟨t, ht⟩ := accept_total s
    exact ⟨t, ht, accept_inv h ht⟩
  · obtain ⟨t, ht, c⟩ := microStep_cases h.control.widx_range h.control.round_range
    exact ⟨t, ht, c.inv h⟩

/-- Settles O39: what a faulting step is, the fault of RDOUT at rest, and that no other fault is left. -/
theorem onlyReadUnwrittenDoutFaults : Obligations.OnlyReadUnwrittenDoutFaults := by
  refine ⟨fun s f h hf => step_eq_fault h hf, fun s rest quiet hj hs hturn hv => ?_,
    fun s h hf => nomatch (step_eq_fault h hf).1⟩
  have reads : hostEnabled (nextTurn s) = true := hostEnabled_of_line hj hs (.inr (.inl rfl))
  rw [step_of_turn quiet.rstN (offerReady_of_no_offer quiet.cmdValid),
    chooseAgent_host (s := nextTurn s) quiet.phase reads hturn]
  exact (hostStep_of_line (s := nextTurn s) hj hs).trans (rdout_unwritten quiet.busy hv)

end

section
/-!
PROOFS. The ports after acceptance (R299): a micro-step neither reads nor writes them.
-/

namespace Sys2Proof.Machine

/-- The state with other values of cmd_valid, cmd and operand (R70). -/
@[simps phase]
def withPorts (valid : Bool) (w : BitVec 16) (v : Quad) (s : State) : State :=
  { s with cmdValid := valid, cmd := w, operand := v }

/-- A micro-step does not look at the ports and leaves them (R190): in each phase the sequencer's checks and writes are the
same with the ports changed before the step or after it. -/
theorem microStep_withPorts (valid : Bool) (w : BitVec 16) (v : Quad) (s : State) :
    microStep (withPorts valid w v s) = mapNext (withPorts valid w v) (microStep s) := by
  unfold microStep
  simp only [withPorts_phase]
  split
  next => rfl
  next => simp only [kxStep, apply_ite (mapNext _)]; rfl
  next => simp only [encStep, apply_ite (mapNext _)]; rfl
  next => simp only [decStep, apply_ite (mapNext _)]; rfl

end Sys2Proof.Machine

open Sys2Proof Sys2Proof.Machine

/-- Settles O10: a micro-step commutes with every change of the ports. -/
theorem portsAfterAcceptanceHaveNoEffect : Obligations.PortsAfterAcceptanceHaveNoEffect :=
  fun s valid w v => microStep_withPorts valid w v s

end

section
/-!
PROOFS. A step with rst_n = 0 (R290 to R293): the adapter is reset with the engine and offers nothing, and only a read of DOUT
has no next state.
-/

namespace Sys2Proof.Machine

/-- The adapter as reset leaves it: no key is named by its tag (R293) and no call of it has offered a command (R292). -/
structure AdapterReset (s : State) : Prop where
  loaded : s.loaded = none
  call : callIssued s = false

/-- Reset takes the host out of a call that has offered a command (R292, log 10). -/
theorem holdInReset_adapter (s : State) : AdapterReset (holdInReset s) where
  loaded := rfl
  call := by
    cases issued : callIssued s with
    | true => simp only [holdInReset, abandonCall, issued, if_true]; rfl
    | false => simp only [holdInReset, abandonCall, issued]; exact issued

/-- With no call to abandon, reset acts on the engine and the adapter's tag alone. -/
theorem holdInReset_of_no_call {s : State} (h : callIssued s = false) : holdInReset s = resetEngine s := by
  simp [holdInReset, abandonCall, h]

@[simp] theorem holdInReset_rstN (s : State) : (holdInReset s).rstN = s.rstN := by
  unfold holdInReset abandonCall
  split <;> rfl

@[simp] theorem holdInReset_script (s : State) : (holdInReset s).script = s.script := by
  unfold holdInReset abandonCall
  split <;> rfl

/-- A call that has offered nothing is at its first stage. -/
theorem stage_of_not_callIssued {s : State} {j : Job} (hj : s.job = some j) (h : callIssued s = false) :
    j.stage = .start := by
  obtain ⟨c, g⟩ := j
  cases g with
  | start => rfl
  | loading | running | reading => simp [callIssued, hj] at h

/-- Without a call in flight nothing has been offered by one. -/
theorem callIssued_of_no_job {s : State} (hj : s.job = none) : callIssued s = false := by
  rw [callIssued, hj]

/-- The step of `s` answers a next state, with the adapter reset, unless it is the host's read of DOUT. -/
def ResetAnswer (s : State) (o : Result) : Prop :=
  (∃ rest, s.script = .rdout :: rest ∧ o = .fault .readUnwrittenDOUT) ∨ ∃ t, o = .next t ∧ AdapterReset t

/-- Everything the host can do in reset: return from the range check of a call (log 10), or run its next line. -/
theorem hostStep_in_reset {s : State} (hn : s.rstN = false) (e : SameEngine State.reset s) (adapter : AdapterReset s)
    (enabled : hostEnabled s = true) : ResetAnswer s (hostStep s) := by
  cases hj : s.job with
  | some j =>
    obtain ⟨c, g⟩ := j
    obtain rfl : g = .start := stage_of_not_callIssued hj adapter.call
    have range : outOfRange (callBytes c) = true := by simpa [hostEnabled, hj, jobEnabled, hn] using enabled
    refine .inr ⟨returnCall (.error (errCode .byteRange)) s, ?_, adapter.loaded, rfl⟩
    simp only [hostStep, hj, jobStep_of_outOfRange range]
  | none =>
    cases hs : s.script with
    | nil => simp [hostEnabled, hj, hs] at enabled
    | cons l rest =>
      rw [hostStep_of_line hj hs]
      cases l with
      | rdout => exact .inl ⟨rest, hs, rdout_unwritten (s := { s with script := rest }) e.busy e.doutValid⟩
      | call c => exact .inr ⟨_, rfl, adapter.loaded, rfl⟩
      | offer | hold | withdraw | wait | rdstat => exact .inr ⟨_, rfl, adapter.loaded, callIssued_of_no_job hj⟩

/-- Everything an agent can do in reset: the engine is idle and the outside drives rst_n alone. -/
theorem agentStep_in_reset {turn : Option Agent} {s : State} (hn : s.rstN = false) (e : SameEngine State.reset s)
    (adapter : AdapterReset s) : ResetAnswer s (agentStep (chooseAgent turn s) s) := by
  refine agentStep_cases ?engine ?host ?outside ?idle
  case engine => exact fun hp => absurd e.phase hp
  case host => exact hostStep_in_reset hn e adapter
  case outside =>
    refine .inr ⟨_, rfl, ?_⟩
    unfold outsideStep
    split <;> exact ⟨adapter.loaded, adapter.call⟩
  case idle => exact .inr ⟨s, rfl, adapter⟩

/-- A step with rst_n = 0 answers a next state with the adapter reset, unless the host reads DOUT. -/
theorem step_in_reset {s : State} (hn : s.rstN = false) : ResetAnswer s (step s) := by
  have answer := agentStep_in_reset (turn := s.schedule.head?) (s := holdInReset (nextTurn s)) (by simpa using hn)
    (holdInReset_sameEngine _) (holdInReset_adapter _)
  simpa only [ResetAnswer, step_of_reset hn, holdInReset_script, nextTurn_script] using answer

/-- Such a step leaves the registers of the engine at their values of R39 (R291). -/
theorem step_in_reset_sameEngine {s t : State} (hn : s.rstN = false) (h : step s = .next t) :
    SameEngine State.reset t := by
  cases step_eq_next h with
  | reset _ e => exact e
  | illegal hn' | command hn' | micro hn' | still hn' => simp [hn] at hn'

/-- An offer that no call has made stays at the port in reset, unless the host takes it back. -/
theorem step_in_reset_beside_offer {s t : State} (hn : s.rstN = false) (hv : s.cmdValid = true)
    (own : callIssued s = false) (h : step s = .next t) : t.cmdValid = true ∨ ∃ rest, s.script = .withdraw :: rest := by
  have own' : callIssued (nextTurn s) = false := own
  rw [step_of_reset hn, holdInReset_of_no_call own'] at h
  rcases agentStep_beside_offer (s := resetEngine (nextTurn s)) hv h with ⟨stays, -, -⟩ | ⟨-, takenBack⟩
  · exact .inl stays
  · exact .inr takenBack

end Sys2Proof.Machine

open Sys2Proof Sys2Proof.Machine

/-- Settles O44: the engine's registers, the adapter and an offer at the port after a step with rst_n = 0, and the one step
that has no next state. -/
theorem resetAbandonsEverything : Obligations.ResetAbandonsEverything := by
  refine fun s hn => ⟨fun t h => ?reset, fun noRead => ?total⟩
  case reset =>
    have e := step_in_reset_sameEngine hn h
    have adapter : AdapterReset t := by
      rcases step_in_reset hn with ⟨-, -, stops⟩ | ⟨u, hu, adapter⟩
      · nomatch h.symm.trans stops
      · cases h.symm.trans hu
        exact adapter
    exact ⟨e.busy, e.phase, e.keyValid, e.doutValid, e.err,
      fun i => mt (rkWritten_congr e.rk i).1 (not_rkWritten_reset i), e.dout, adapter.loaded, adapter.call,
      fun hv own kept => (step_in_reset_beside_offer hn hv own h).resolve_right fun ⟨rest, hs⟩ => kept rest hs⟩
  case total =>
    rcases step_in_reset hn with ⟨rest, hs, -⟩ | ⟨t, ht, -⟩
    · exact absurd hs (noRead rest)
    · exact ⟨t, ht⟩

end

section
/-!
PROOFS. The latency of a command (R302).
-/

namespace Sys2Proof.Machine

/-- A command in error has latency 0. -/
theorem commandLatency_of_error {i : Instr} {s : State} {e : ErrKind} (h : acceptError i s = some e) :
    commandLatency i s = 0 := by
  simp only [commandLatency, h]

/-- RKRD has latency 0, in error or not. -/
theorem commandLatency_rkrd (r : BitVec 5) (s : State) : commandLatency (.rkrd r) s = 0 := by
  unfold commandLatency
  split <;> rfl

/-- The state enters the latency by the error checks alone. -/
theorem commandLatency_congr {i : Instr} {s t : State} (h : acceptError i s = acceptError i t) :
    commandLatency i s = commandLatency i t := by
  simp only [commandLatency, h]

/-- An accepted KEYEXP, ENC or DEC takes at least one cycle. -/
theorem one_le_commandLatency {i : Instr} {s : State} (accepted : acceptError i s = none) (hi : ∀ r, i ≠ .rkrd r) :
    1 ≤ commandLatency i s := by
  cases i with
  | keyexp len | enc len | dec len => simp only [commandLatency, accepted, Nat.le_add_left]
  | rkrd r => exact absurd rfl (hi r)

end Sys2Proof.Machine

open Sys2Proof Sys2Proof.Machine

/-- Settles O52: latency 0 for errors and RKRD, and one latency of at least 1 for any other command. -/
theorem latencyDependsOnTheCommandAlone : Obligations.LatencyDependsOnTheCommandAlone := by
  refine fun s t i => ⟨?_, fun hs ht => ⟨commandLatency_congr (hs.trans ht.symm), one_le_commandLatency hs⟩⟩
  rintro (fails | ⟨r, rfl⟩)
  · obtain ⟨e, he⟩ := Option.ne_none_iff_exists'.1 fails
    exact commandLatency_of_error he
  · exact commandLatency_rkrd r s

end
